-- ==== Sys2Proof/Word.lean ====
section
/-! DEFINITION. The word types of the block (`00_scope.md` R7, R6): bytes, 32-bit registers, 64-bit command words. -/

namespace Sys2Proof

/-- A byte: 8 bits, an unsigned number 0 to 255 (R7). Every PIX, FB and OUT access moves one (R65). -/
abbrev Byte := BitVec 8

/-- The contents of a host-visible register: 32 bits (R6, R23). -/
abbrev Word := BitVec 32

/-- A command word: 64 bits (R6, R80). -/
abbrev CmdWord := BitVec 64

end Sys2Proof
end

