-- ==== Sys2Proof/Syntax.lean ====
section
/-! DEFINITION. The commands of the block: one constructor per row of `30_encoding.md` R85. -/

namespace Sys2Proof

/-- A command (R80 to R85). The format-Z commands take their operands from the configuration registers (R81). -/
inductive Instr where
  /-- FLT.NONE (`40_row_filter.md` R127) -/
  | fltNone
  /-- FLT.SUB (R128) -/
  | fltSub
  /-- FLT.UP (R129) -/
  | fltUp
  /-- FLT.AVG (R130) -/
  | fltAvg
  /-- FLT.PAETH (R132) -/
  | fltPaeth
  /-- FLT.AUTO (R131) -/
  | fltAuto
  /-- ZCOMP (`41_lz77_huffman.md` R140) -/
  | zcomp
  /-- WRBITS value, count (`42_bitstream.md` R182; format B, R82): `count` is the unsigned number `n6` -/
  | wrbits (value : Word) (count : Nat)
  /-- FLUSH final (R184; format F, R83) -/
  | flush (final : Bool)
  /-- WRBE32 value (R186; format W, R84) -/
  | wrbe32 (value : Word)
  /-- BSCLR (R187) -/
  | bsclr
  /-- ADINIT (`43_adler32.md` R191) -/
  | adinit
  /-- ADUPD (R192) -/
  | adupd
  deriving DecidableEq, Repr

end Sys2Proof
end

