-- ==== Sys2Proof/WellFormed.lean ====
section
/-! DEFINITION. Which commands have an encoding. The operand types of `Instr` say all but one thing: that the count of
WRBITS is a 6-bit number (`30_encoding.md` R82). -/

namespace Sys2Proof

/-- The operands fit their fields. A count of 33 to 63 is well formed: it decodes, and raises BAD_COUNT when it runs
(R82). -/
def WellFormed : Instr → Bool
  | .wrbits _ count => decide (count < 64)
  | .fltNone => true
  | .fltSub => true
  | .fltUp => true
  | .fltAvg => true
  | .fltPaeth => true
  | .fltAuto => true
  | .zcomp => true
  | .flush _ => true
  | .wrbe32 _ => true
  | .bsclr => true
  | .adinit => true
  | .adupd => true

end Sys2Proof
end

