-- ==== Sys2Proof/Decode.lean ====
section
/-! DEFINITION. Command words (`30_encoding.md` Part A): the decoder, total on every 64-bit word (R86), the encoder, and
the opcode map of R85 as data. -/

namespace Sys2Proof

/-- `w[63:56]`, the opcode (R80). -/
def opField (w : CmdWord) : BitVec 8 := w.extractLsb' 56 8

/-- `w[55:38]`, reserved (R80). -/
def rsvField (w : CmdWord) : BitVec 18 := w.extractLsb' 38 18

/-- `w[37:32]`, the 6-bit operand (R80). -/
def n6Field (w : CmdWord) : BitVec 6 := w.extractLsb' 32 6

/-- `w[31:0]`, the 32-bit operand (R80). -/
def immField (w : CmdWord) : Word := w.extractLsb' 0 32

/-- Why a word is no command (R86). Both raise the one fault ILLEGAL_CMD (R222). -/
inductive Illegal where
  /-- its opcode is not in the table of R85 -/
  | unknownOpcode (op : BitVec 8)
  /-- a bit that the opcode's format fixes at 0 is 1 -/
  | fixedBitNonzero (op : BitVec 8)
  deriving DecidableEq, Repr

/-- What the decoder answers: exactly one command, or that the word is illegal and why (R86). -/
inductive Decoded where
  | instr (i : Instr)
  | illegal (why : Illegal)
  deriving DecidableEq, Repr

/-- Format Z (R81): `w[55:0]` must be 0. -/
def decodeZ (w : CmdWord) (i : Instr) : Decoded :=
  if rsvField w = 0#18 ∧ n6Field w = 0#6 ∧ immField w = 0#32 then .instr i
  else .illegal (.fixedBitNonzero (opField w))

/-- Format B (R82): `rsv = 0`; the count is `n6`, the value `imm32`. -/
def decodeB (w : CmdWord) : Decoded :=
  if rsvField w = 0#18 then .instr (.wrbits (immField w) (n6Field w).toNat)
  else .illegal (.fixedBitNonzero (opField w))

/-- Format F (R83): `rsv = 0`, `w[37:33] = 0`, `imm32 = 0`; `w[32]` is `final`. -/
def decodeF (w : CmdWord) : Decoded :=
  if rsvField w = 0#18 ∧ (n6Field w).extractLsb' 1 5 = 0#5 ∧ immField w = 0#32 then
    .instr (.flush ((n6Field w).getLsbD 0))
  else .illegal (.fixedBitNonzero (opField w))

/-- Format W (R84): `rsv = 0`, `n6 = 0`; the value is `imm32`. -/
def decodeW (w : CmdWord) : Decoded :=
  if rsvField w = 0#18 ∧ n6Field w = 0#6 then .instr (.wrbe32 (immField w))
  else .illegal (.fixedBitNonzero (opField w))

/-- The decoder (R85, R86): the opcode selects the format, the format checks its fixed bits. -/
def decode (w : CmdWord) : Decoded :=
  if opField w = 0x10#8 then decodeZ w .fltNone
  else if opField w = 0x11#8 then decodeZ w .fltSub
  else if opField w = 0x12#8 then decodeZ w .fltUp
  else if opField w = 0x13#8 then decodeZ w .fltAvg
  else if opField w = 0x14#8 then decodeZ w .fltPaeth
  else if opField w = 0x18#8 then decodeZ w .fltAuto
  else if opField w = 0x20#8 then decodeZ w .zcomp
  else if opField w = 0x30#8 then decodeB w
  else if opField w = 0x31#8 then decodeF w
  else if opField w = 0x32#8 then decodeW w
  else if opField w = 0x33#8 then decodeZ w .bsclr
  else if opField w = 0x40#8 then decodeZ w .adinit
  else if opField w = 0x41#8 then decodeZ w .adupd
  else .illegal (.unknownOpcode (opField w))

/-- A command word from its fields, `op || rsv = 0 || n6 || imm32` (R80). -/
def packWord (op : BitVec 8) (n6 : BitVec 6) (imm : Word) : CmdWord := op ++ 0#18 ++ n6 ++ imm

/-- The opcode of a command (R85). -/
def opcodeOf : Instr → BitVec 8
  | .fltNone => 0x10#8
  | .fltSub => 0x11#8
  | .fltUp => 0x12#8
  | .fltAvg => 0x13#8
  | .fltPaeth => 0x14#8
  | .fltAuto => 0x18#8
  | .zcomp => 0x20#8
  | .wrbits _ _ => 0x30#8
  | .flush _ => 0x31#8
  | .wrbe32 _ => 0x32#8
  | .bsclr => 0x33#8
  | .adinit => 0x40#8
  | .adupd => 0x41#8

/-- The `n6` field of a command: the count of WRBITS, the final flag of FLUSH in bit 32 of the word, else 0 (R81 to R84). -/
def n6Of : Instr → BitVec 6
  | .wrbits _ count => BitVec.ofNat 6 count
  | .flush final => if final then 1#6 else 0#6
  | .fltNone | .fltSub | .fltUp | .fltAvg | .fltPaeth | .fltAuto | .zcomp | .wrbe32 _ | .bsclr | .adinit | .adupd => 0#6

/-- The `imm32` field of a command: the value of WRBITS and WRBE32, else 0 (R81 to R84). -/
def immOf : Instr → Word
  | .wrbits value _ => value
  | .wrbe32 value => value
  | .fltNone | .fltSub | .fltUp | .fltAvg | .fltPaeth | .fltAuto | .zcomp | .flush _ | .bsclr | .adinit | .adupd => 0#32

/-- The word of a well-formed command (R80 to R85). -/
def encode (i : Instr) : CmdWord := packWord (opcodeOf i) (n6Of i) (immOf i)

/-- A row of the opcode map (R85): `w & mask = code` selects the command. -/
structure OpRow where
  mnemonic : String
  mask : CmdWord
  code : CmdWord
  deriving DecidableEq, Repr

/-- The opcode map of R85, row for row. -/
def opcodeMap : List OpRow :=
  [⟨"FLT.NONE", 0xFFFFFFFFFFFFFFFF#64, 0x1000000000000000#64⟩,
   ⟨"FLT.SUB", 0xFFFFFFFFFFFFFFFF#64, 0x1100000000000000#64⟩,
   ⟨"FLT.UP", 0xFFFFFFFFFFFFFFFF#64, 0x1200000000000000#64⟩,
   ⟨"FLT.AVG", 0xFFFFFFFFFFFFFFFF#64, 0x1300000000000000#64⟩,
   ⟨"FLT.PAETH", 0xFFFFFFFFFFFFFFFF#64, 0x1400000000000000#64⟩,
   ⟨"FLT.AUTO", 0xFFFFFFFFFFFFFFFF#64, 0x1800000000000000#64⟩,
   ⟨"ZCOMP", 0xFFFFFFFFFFFFFFFF#64, 0x2000000000000000#64⟩,
   ⟨"WRBITS", 0xFFFFFFC000000000#64, 0x3000000000000000#64⟩,
   ⟨"FLUSH", 0xFFFFFFFEFFFFFFFF#64, 0x3100000000000000#64⟩,
   ⟨"WRBE32", 0xFFFFFFFF00000000#64, 0x3200000000000000#64⟩,
   ⟨"BSCLR", 0xFFFFFFFFFFFFFFFF#64, 0x3300000000000000#64⟩,
   ⟨"ADINIT", 0xFFFFFFFFFFFFFFFF#64, 0x4000000000000000#64⟩,
   ⟨"ADUPD", 0xFFFFFFFFFFFFFFFF#64, 0x4100000000000000#64⟩]

/-- The mnemonic of a command (R85, R88). -/
def mnemonicOf : Instr → String
  | .fltNone => "FLT.NONE"
  | .fltSub => "FLT.SUB"
  | .fltUp => "FLT.UP"
  | .fltAvg => "FLT.AVG"
  | .fltPaeth => "FLT.PAETH"
  | .fltAuto => "FLT.AUTO"
  | .zcomp => "ZCOMP"
  | .wrbits _ _ => "WRBITS"
  | .flush _ => "FLUSH"
  | .wrbe32 _ => "WRBE32"
  | .bsclr => "BSCLR"
  | .adinit => "ADINIT"
  | .adupd => "ADUPD"

/-- The command word of a table word: `nbits` bits are given and every bit above them is 0. A command is one 64-bit word,
handed over whole (R76, R80), so it has no byte order. -/
def tableCmdWord (nbits w : Nat) : CmdWord := BitVec.ofNat 64 (w % 2 ^ nbits)

/-- The command that the decoder reads from a word numbered as the opcode table numbers it. -/
def decodeTableWord (nbits w : Nat) : Option Instr :=
  match decode (tableCmdWord nbits w) with
  | .instr i => some i
  | .illegal _ => none

end Sys2Proof
end

