-- ==== Sys2Proof/Config.lean ====
section
/-! DEFINITION. What an implementation fixes and the spec leaves OPEN (`00_scope.md` R6, `92_eei_decisions.md` "Open
parameters"), and the free values. An `opaque` constant here has no body: a statement about it holds for every value. -/

namespace Sys2Proof

/-- Contents of HT (`10_state.md` R45): for each bucket number listed, its slots from slot 0 on, an entry being an offset
or the sentinel -1. A bucket that is not listed holds -1 in every slot. DESIGN CHOICE (safe): log entry 13. -/
abbrev HashTable := List (Nat × List Int)

/-- Which function HASH3 is (`41_lz77_huffman.md` R145): the spec's default, or an unknown one
(`Config.hash3`). DESIGN CHOICE (safe): log entry 4. -/
inductive HashFn where
  /-- the default mix that R145 writes out -/
  | mix
  /-- any total function of the three bytes: the uninterpreted `Config.hash3` -/
  | other
  deriving DecidableEq, Repr

/-- What bytes of PIX or FB hold until first written (`20_memory.md` R78): an arbitrary stable function of the address.
DESIGN CHOICE (safe): log entry 5. -/
inductive PowerOn where
  /-- the same byte everywhere -/
  | fill (b : Byte)
  /-- any function of the address: an uninterpreted constant of Config -/
  | unknown
  deriving DecidableEq, Repr

/-- The parameters of one block, fixed for its life (R6, R52). -/
structure Params where
  /-- PIX_SIZE, bytes of pixel memory -/
  pixSize : Nat
  /-- FB_SIZE, bytes of filtered-buffer memory -/
  fbSize : Nat
  /-- OUT_CAP, bytes the output storage can hold; `none` is infinite -/
  outCap : Option Nat
  /-- QMAX, the upper clamp of `quality` -/
  qmax : Nat
  /-- HASH3 -/
  hash : HashFn
  /-- what unwritten PIX bytes hold -/
  pixInit : PowerOn
  /-- what unwritten FB bytes hold -/
  fbInit : PowerOn
  deriving DecidableEq, Repr

/-- The values R6 allows: 1 ≤ PIX_SIZE, FB_SIZE ≤ 2^32, OUT_CAP infinite or at most 2^32 - 1, QMAX ≥ 5. -/
abbrev Params.Legal (p : Params) : Prop :=
  1 ≤ p.pixSize ∧ p.pixSize ≤ 2 ^ 32 ∧ 1 ≤ p.fbSize ∧ p.fbSize ≤ 2 ^ 32 ∧ p.outCap.getD 0 < 2 ^ 32 ∧ 5 ≤ p.qmax

namespace Config

/-- PIX_SIZE - 1: any 32-bit number, so that PIX_SIZE is any of 1 to 2^32. -/
opaque pixSizeLess1 : BitVec 32

/-- FB_SIZE - 1: any 32-bit number. -/
opaque fbSizeLess1 : BitVec 32

/-- OUT_CAP: infinite or any 32-bit number. -/
opaque outCap : Option (BitVec 32)

/-- QMAX - 5: any number. -/
opaque qmaxAbove5 : Nat

/-- HASH3 where it is not the default: any total function from three bytes to 0 to 16383 (R145). -/
opaque hash3 : Byte → Byte → Byte → BitVec 14

/-- The byte that PIX holds at an address until it is written (R78). -/
opaque pixPowerOn : Nat → Byte

/-- The byte that FB holds at an address until it is written (R78). -/
opaque fbPowerOn : Nat → Byte

/-- ACC after an OUT_FULL inside ZCOMP (R161): free. DESIGN CHOICE (safe): log entry 6. -/
opaque freeAcc : Nat → BitVec 39

/-- CNT after an OUT_FULL inside ZCOMP (R161): free, within the three bits of BITCNT[2:0]. -/
opaque freeCnt : Nat → BitVec 3

/-- FIN after an OUT_FULL inside ZCOMP (R161): free. -/
opaque freeFin : Nat → Bool

/-- LO after an OUT_FULL inside ZCOMP (R161): free. -/
opaque freeLo : Nat → BitVec 16

/-- HI after an OUT_FULL inside ZCOMP (R161): free. -/
opaque freeHi : Nat → BitVec 16

/-- HT after any ZCOMP that ran (R45, R161): free. DESIGN CHOICE (safe): log entry 7. -/
opaque freeHt : Nat → HashTable

/-- OUTLEN when OUT holds 2^32 bytes or more (R38), applied to their number: free. DESIGN CHOICE (safe): log entry 26. -/
opaque freeOutlen : Nat → Word

/-- The parameters of the block that `State.reset` is the reset state of: every OPEN one uninterpreted, over exactly
its legal values. DESIGN CHOICE (safe): log entry 3. -/
def params : Params where
  pixSize := pixSizeLess1.toNat + 1
  fbSize := fbSizeLess1.toNat + 1
  outCap := outCap.map BitVec.toNat
  qmax := qmaxAbove5 + 5
  hash := .other
  pixInit := .unknown
  fbInit := .unknown

end Config

end Sys2Proof
end

