-- ==== Sys2Proof/Machine/State.lean ====
section
/-! DEFINITION. The state of the block (`10_state.md` R20 to R53) as plain data, the host operations it waits for, the
state after reset, and one named update per group of fields. -/

namespace Sys2Proof.Machine

/-- Why the machine would stop. It never does: a command fault is a next state with ERR set (`60_exceptions.md` R229), a
bus error is a reply (`44_host_interface.md` R204), and every command terminates (R252); so nobody raises a fault and the
type has no constructor. Safe: nothing the spec describes ends in one. -/
inductive Fault
  deriving DecidableEq, Repr

/-- Why an instruction has no meaning. -/
inductive Refusal where
  /-- Raised by an arm of `exec` whose command has no meaning yet, and by nobody else; no arm does so now. Safe: nothing
  can be proved of a command that is refused. -/
  | notModelled (mnemonic : String)
  deriving DecidableEq, Repr

/-- PIX and FB (`20_memory.md` R61, R62): the bytes written since power-on, as (address, byte) pairs with addresses
strictly rising and no pair equal to what the address holds at power-on. -/
abbrev Memory := List Host.Cell

/-- A host operation (`44_host_interface.md` R200 to R208). A register number or an address is any number (R204). -/
inductive HostOp where
  /-- CMD(w): hand the block one command word (R201) -/
  | cmd (w : CmdWord)
  /-- REGRD(r) (R202) -/
  | regrd (r : Nat)
  /-- REGWR(r, v) (R203) -/
  | regwr (r : Nat) (v : Word)
  /-- PIXWR(a, b) (R205) -/
  | pixwr (a : Nat) (b : Byte)
  /-- PIXRD(a) (R205) -/
  | pixrd (a : Nat)
  /-- FBWR(a, b) (R206) -/
  | fbwr (a : Nat) (b : Byte)
  /-- FBRD(a) (R206) -/
  | fbrd (a : Nat)
  /-- OUTRD(k) (R207) -/
  | outrd (k : Nat)
  /-- RESET (R208) -/
  | reset
  deriving DecidableEq, Repr

/-- What the host gets back from an operation. -/
inductive Reply where
  /-- completed, nothing returned: CMD, REGWR, PIXWR, FBWR, RESET (R201, R203) -/
  | done
  /-- the value of a register (R202) -/
  | reg (v : Word)
  /-- a byte of PIX, FB or OUT (R205 to R207) -/
  | byte (b : Byte)
  /-- a bus error: no value, no state change (R204) -/
  | busError
  deriving DecidableEq, Repr

/-- The complete state (R20), the instance's parameters, and the host's side of the interface. -/
structure State where
  /-- the OPEN parameters of this block; never written (R52; log entry 3) -/
  params : Params
  /-- SRC 0x00 (R24) -/
  src : Word
  /-- STRIDE 0x01 (R25) -/
  stride : Word
  /-- BPP 0x02 (R26) -/
  bpp : Word
  /-- SIZE 0x03 (R27) -/
  size : Word
  /-- ROW 0x04 (R28) -/
  row : Word
  /-- DST 0x05 (R29) -/
  dst : Word
  /-- FSEL 0x06 (R30) -/
  fsel : Word
  /-- DATA 0x07 (R31) -/
  data : Word
  /-- LEN 0x08 (R32) -/
  len : Word
  /-- QUALITY 0x09 (R33) -/
  quality : Word
  /-- ERR, 4 bits (R42) -/
  err : BitVec 4
  /-- COST (R35) -/
  cost : Word
  /-- KIND[2:0] (R36) -/
  kind : BitVec 3
  /-- OUT, oldest byte first (R44) -/
  out : List Byte
  /-- ACC, 39 bits (R40) -/
  acc : BitVec 39
  /-- CNT: 0 to 7 between commands, at most 39 inside WriteBits (R40; log entry 12) -/
  cnt : Nat
  /-- FIN (R41) -/
  fin : Bool
  /-- LO (R43) -/
  lo : BitVec 16
  /-- HI (R43) -/
  hi : BitVec 16
  /-- HT (R45) -/
  ht : HashTable
  /-- I, the position of ZCOMP (R46) -/
  lzI : Nat
  /-- Q, the clamped quality (R46) -/
  lzQ : Nat
  /-- BEST (R46) -/
  lzBest : Nat
  /-- BESTLOC (R46) -/
  lzBestLoc : Option Nat
  /-- PIX (R48) -/
  pix : Memory
  /-- FB (R48) -/
  fb : Memory
  /-- the host operations still to be performed, oldest first (R200; log entry 1) -/
  hostOps : List HostOp
  /-- what the host got back, newest first (log entry 2) -/
  replies : List Reply
  /-- how many times free values were drawn (log entry 15) -/
  freeCtr : Nat
  deriving DecidableEq, Repr

namespace State

/-- The block with parameters `p` right after reset (R53, R240, R241): idle, no fault, nothing written in PIX and FB. HT
and the transients I, Q, BEST, BESTLOC, which R53 leaves unspecified, hold named values (DESIGN CHOICE, unsafe: log
entries 7 and 8); ZCOMP writes each of them before it reads it. -/
def init (p : Params) : State where
  params := p
  src := 0#32
  stride := 0#32
  bpp := 0#32
  size := 0#32
  row := 0#32
  dst := 0#32
  fsel := 0#32
  data := 0#32
  len := 0#32
  quality := 0#32
  err := 0#4
  cost := 0#32
  kind := 0#3
  out := []
  acc := 0#39
  cnt := 0
  fin := false
  lo := 1#16
  hi := 0#16
  ht := []
  lzI := 0
  lzQ := 0
  lzBest := 0
  lzBestLoc := none
  pix := []
  fb := []
  hostOps := []
  replies := []
  freeCtr := 0

/-- The machine right after reset (R53), its OPEN parameters uninterpreted (log entry 3). -/
def reset : State := init Config.params

/-! One update per group of fields that the rules write together; `Laws/State.lean` has what each leaves. -/

def setErr (s : State) (e : BitVec 4) : State := { s with err := e }
def setRow (s : State) (m : Memory) (c : Word) (k : BitVec 3) : State := { s with fb := m, cost := c, kind := k }
def setOut (s : State) (o : List Byte) : State := { s with out := o }
def setBits (s : State) (a : BitVec 39) (c : Nat) : State := { s with acc := a, cnt := c }
def setFin (s : State) (f : Bool) : State := { s with fin := f }
def setSums (s : State) (l h : BitVec 16) : State := { s with lo := l, hi := h }
def setHt (s : State) (t : HashTable) : State := { s with ht := t }
def setPos (s : State) (i : Nat) : State := { s with lzI := i }
def setQ (s : State) (q : Nat) : State := { s with lzQ := q }
def setBest (s : State) (b : Nat) (l : Option Nat) : State := { s with lzBest := b, lzBestLoc := l }
def setPix (s : State) (m : Memory) : State := { s with pix := m }
def setFb (s : State) (m : Memory) : State := { s with fb := m }
def setHostOps (s : State) (ops : List HostOp) : State := { s with hostOps := ops }
def setReplies (s : State) (rs : List Reply) : State := { s with replies := rs }
def setFreeCtr (s : State) (n : Nat) : State := { s with freeCtr := n }

end State

end Sys2Proof.Machine
end

