-- ==== Sys2Proof/Machine/Constants.lean ====
section
/-! DEFINITION. The constants that `00_scope.md` R6 fixes. -/

namespace Sys2Proof.Machine

/-- WINDOW: the LZ77 window, 32768 bytes (R6). -/
def WINDOW : Nat := 32768
/-- MIN_MATCH: the least match length (R6). -/
def MIN_MATCH : Nat := 3
/-- MAX_MATCH: the greatest match length (R6). -/
def MAX_MATCH : Nat := 258
/-- MAX_DIST: the greatest distance the match finder can produce (R6; `90_conflicts.md` C1). -/
def MAX_DIST : Nat := 32767
/-- QMIN: the lower clamp of `quality` (R6). -/
def QMIN : Nat := 5
/-- NMAX: the Adler-32 block length (R6). -/
def NMAX : Nat := 5552
/-- BASE: the Adler-32 modulus (R6). -/
def BASE : Nat := 65521
/-- MAX_ROW: the greatest legal row length SIZE, 2^24 (R6). -/
def MAX_ROW : Nat := 16777216
/-- LEN must be below this: 2^31 (`10_state.md` R32). -/
def LEN_LIMIT : Nat := 2147483648

end Sys2Proof.Machine
end

