-- ==== Sys2Proof/Machine/Ops.lean ====
section
/-! DEFINITION. The operations every command shares: bytes of PIX and FB, appending to OUT, taking a command fault, the
way out of it (RESET), and the test for FAULTED that every command makes. -/

namespace Sys2Proof.Machine

/-- What `exec` and `step` answer. -/
abbrev Result := Host.Outcome State Fault Refusal

/-! ### Byte memories (`20_memory.md` R60 to R62, R69, R78) -/

/-- What a byte holds until it is first written (R78): `free` stands for the arbitrary function. -/
def powerOnByte (free : Nat → Byte) : PowerOn → Nat → Byte
  | .fill b, _ => b
  | .unknown, a => free a

/-- The byte at address `a`; an address that is not listed reads as `bg a`. -/
def Memory.read (bg : Nat → Byte) : Memory → Nat → Byte
  | [], a => bg a
  | (k, b) :: m, a => if k = a then b else Memory.read bg m a

/-- `m[a] <- b`, in canonical form: addresses rise, and a byte that equals `bg a` is not listed. -/
def Memory.write (bg : Nat → Byte) : Memory → Nat → Byte → Memory
  | [], a, b => if b = bg a then [] else [(a, b)]
  | (k, c) :: m, a, b =>
    if a < k then if b = bg a then (k, c) :: m else (a, b) :: (k, c) :: m
    else if a = k then if b = bg a then m else (a, b) :: m
    else (k, c) :: Memory.write bg m a b

/-- Write consecutive bytes from address `a` upward. -/
def Memory.writeList (bg : Nat → Byte) : Memory → Nat → List Byte → Memory
  | m, _, [] => m
  | m, a, b :: bs => Memory.writeList bg (Memory.write bg m a b) (a + 1) bs

/-- The canonical form: addresses strictly rising, no pair equal to what its address reads as unlisted. -/
abbrev Memory.wf (bg : Nat → Byte) (m : Memory) : Prop :=
  m.Pairwise (fun c d => c.1 < d.1) ∧ ∀ c ∈ m, c.2 ≠ bg c.1

/-- Every listed address lies below `n`. -/
abbrev Memory.within (n : Nat) (m : Memory) : Prop := ∀ c ∈ m, c.1 < n

/-- What unwritten PIX bytes hold. -/
def State.pixBg (s : State) : Nat → Byte := powerOnByte Config.pixPowerOn s.params.pixInit

/-- What unwritten FB bytes hold. -/
def State.fbBg (s : State) : Nat → Byte := powerOnByte Config.fbPowerOn s.params.fbInit

/-- `PIX[a]` (`00_scope.md` R8). -/
def State.pixAt (s : State) (a : Nat) : Byte := Memory.read s.pixBg s.pix a

/-- `FB[a]` (R8). -/
def State.fbAt (s : State) (a : Nat) : Byte := Memory.read s.fbBg s.fb a

/-- `PIX[a] <- b` (R205). -/
def State.pixPut (s : State) (a : Nat) (b : Byte) : State := s.setPix (Memory.write s.pixBg s.pix a b)

/-- `FB[a] <- b` (R206). -/
def State.fbPut (s : State) (a : Nat) (b : Byte) : State := s.setFb (Memory.write s.fbBg s.fb a b)

/-! ### Command faults (`60_exceptions.md` R220 to R231) -/

/-- The fault causes of R221. -/
inductive CmdFault where
  | illegalCmd
  | badCount
  | notAligned
  | badCfg
  | badAddr
  | outFull
  deriving DecidableEq, Repr

/-- The code latched in ERR (R221). -/
def faultCode : CmdFault → BitVec 4
  | .illegalCmd => 1#4
  | .badCount => 2#4
  | .notAligned => 3#4
  | .badCfg => 4#4
  | .badAddr => 5#4
  | .outFull => 6#4

/-- `raise F` (R229): ERR takes the code if it is 0; nothing is saved anywhere, no mode changes, and the command ends. -/
def raise (f : CmdFault) (s : State) : State :=
  if s.err = 0#4 then s.setErr (faultCode f) else s

/-- RESET, the only exit from FAULTED (R231; `70_reset_and_hazards.md` R240): every piece of the block's state takes its
reset value; PIX and FB keep their bytes, and the host's side, the parameters and the free-value counter are not the
block's to reset (log entry 16). -/
def resetBlock (s : State) : State :=
  { State.init s.params with
    pix := s.pix, fb := s.fb, hostOps := s.hostOps, replies := s.replies, freeCtr := s.freeCtr }

/-- Every command tests `ERR = 0` before doing anything (`10_state.md` R49, R230): a FAULTED block ignores it
(log entry 10). -/
def command (body : State → State) (s : State) : Result :=
  .next (if s.err = 0#4 then body s else s)

/-! ### Appending to OUT (`20_memory.md` R63) -/

/-- The outcome of something that appends: the state after it, or the state in which an append found no room. -/
abbrev Appended := Except State State

/-- `OutAppend(b)` (R63): OUT_FULL when `OUTLEN = OUT_CAP`, else the byte is appended. -/
def outAppend (b : Byte) (s : State) : Appended :=
  if s.params.outCap = some s.out.length then .error s else .ok (s.setOut (s.out ++ [b]))

/-- `OUTLEN + n > OUT_CAP`: the check that WRBITS, FLUSH and WRBE32 make before any effect (R227). -/
def exceedsCap (n : Nat) (s : State) : Bool :=
  match s.params.outCap with
  | none => false
  | some cap => decide (cap < s.out.length + n)

/-- The end of an appending command: an append without room raises OUT_FULL. -/
def settle : Appended → State
  | .ok s => s
  | .error s => raise .outFull s

end Sys2Proof.Machine
end

