-- ==== Sys2Proof/Machine/Flags.lean ====
section
/-! DEFINITION. The two flags FIN and ERR (`10_state.md` R49) and the read-only views (R34 to R39). There are no carry,
zero, sign or overflow flags (R49). -/

namespace Sys2Proof.Machine

/-- STATUS (R34): `STATUS[3:0]` is ERR, `STATUS[4]` is FIN, the rest reads 0. -/
def State.status (s : State) : Word := 0#27 ++ BitVec.ofBool s.fin ++ s.err

/-- KIND (R36): `KIND[31:3]` reads 0. -/
def State.kindView (s : State) : Word := s.kind.setWidth 32

/-- ADLER (R37): HI in the upper half, LO in the lower. -/
def State.adler (s : State) : Word := s.hi ++ s.lo

/-- OUTLEN (R38): the number of bytes in OUT. With OUT_CAP infinite that number can outgrow the 32-bit register, and the
spec states no value for it then: a free value (log entry 26). -/
def State.outlen (s : State) : Word :=
  if s.out.length < 2 ^ 32 then BitVec.ofNat 32 s.out.length else Config.freeOutlen s.out.length

/-- BITCNT (R39): `BITCNT[2:0]` is CNT, the rest reads 0. -/
def State.bitcnt (s : State) : Word := (BitVec.ofNat 3 s.cnt).setWidth 32

/-- FIN is set when `final` is 1 and otherwise unchanged (R41; `42_bitstream.md` R185). -/
def markFinal (final : Bool) (s : State) : State := if final then s.setFin true else s

end Sys2Proof.Machine
end

