-- ==== Sys2Proof/Machine/Operands.lean ====
section
/-! DEFINITION. Where commands and the host take their operands from: the register map (`10_state.md` R23 to R39) and the
address ranges (`20_memory.md` R71). The immediate operands of a command are fields of `Instr` (`30_encoding.md` R87). -/

namespace Sys2Proof.Machine

/-- The value of register number `r`: the stored value of a configuration register, the current view of a read-only one;
none where the number is not implemented (`44_host_interface.md` R202, R204). -/
def readReg (r : Nat) (s : State) : Option Word :=
  match r with
  | 0x00 => some s.src
  | 0x01 => some s.stride
  | 0x02 => some s.bpp
  | 0x03 => some s.size
  | 0x04 => some s.row
  | 0x05 => some s.dst
  | 0x06 => some s.fsel
  | 0x07 => some s.data
  | 0x08 => some s.len
  | 0x09 => some s.quality
  | 0x10 => some s.status
  | 0x11 => some s.cost
  | 0x12 => some s.kindView
  | 0x13 => some s.adler
  | 0x14 => some s.outlen
  | 0x15 => some s.bitcnt
  | _ => none

/-- REGWR: all 32 bits are stored unchecked in a configuration register, a write to a read-only register is ignored;
none where the number is not implemented (R203, R204). -/
def writeReg (r : Nat) (v : Word) (s : State) : Option State :=
  match r with
  | 0x00 => some { s with src := v }
  | 0x01 => some { s with stride := v }
  | 0x02 => some { s with bpp := v }
  | 0x03 => some { s with size := v }
  | 0x04 => some { s with row := v }
  | 0x05 => some { s with dst := v }
  | 0x06 => some { s with fsel := v }
  | 0x07 => some { s with data := v }
  | 0x08 => some { s with len := v }
  | 0x09 => some { s with quality := v }
  | 0x10 => some s
  | 0x11 => some s
  | 0x12 => some s
  | 0x13 => some s
  | 0x14 => some s
  | 0x15 => some s
  | _ => none

/-- The scanline lies in PIX: `SRC + SIZE ≤ PIX_SIZE` (R71). -/
abbrev State.rowInPix (s : State) : Prop := s.src.toNat + s.size.toNat ≤ s.params.pixSize

/-- When ROW is not 0 the previous row lies in PIX: `SRC - STRIDE ≥ 0` and `SRC - STRIDE + SIZE ≤ PIX_SIZE` (R71). -/
abbrev State.prevRowInPix (s : State) : Prop :=
  s.row = 0#32 ∨
    (s.stride.toNat ≤ s.src.toNat ∧ s.src.toNat - s.stride.toNat + s.size.toNat ≤ s.params.pixSize)

/-- The FilteredBuffer lies in FB: `DST + SIZE ≤ FB_SIZE` (R71). -/
abbrev State.rowInFb (s : State) : Prop := s.dst.toNat + s.size.toNat ≤ s.params.fbSize

/-- The buffer of ZCOMP and ADUPD lies in FB: `DATA + LEN ≤ FB_SIZE` (R71). -/
abbrev State.bufInFb (s : State) : Prop := s.data.toNat + s.len.toNat ≤ s.params.fbSize

/-- `d[k] = FB[DATA + k]`, a byte of the buffer of ZCOMP and ADUPD (`41_lz77_huffman.md`, `43_adler32.md` R192). -/
def State.bufAt (s : State) (k : Nat) : Byte := s.fbAt (s.data.toNat + k)

/-- The bytes `d[pos .. pos + n - 1]`. -/
def State.bufSlice (s : State) (pos n : Nat) : List Byte := (List.range n).map fun j => s.bufAt (pos + j)

end Sys2Proof.Machine
end

