-- ==== Sys2Proof/Machine/Checksum.lean ====
section
/-! DEFINITION. The Checksum Accumulator (`43_adler32.md`): the block step, ADINIT and ADUPD. -/

namespace Sys2Proof.Machine

/-- `s`, the plain sum of a block (R194). -/
def blockSum : List Byte → Nat
  | [] => 0
  | b :: bs => b.toNat + blockSum bs

/-- `h`, the weighted sum of a block: the first byte weighs `n`, the last 1 (R194). -/
def blockWeighted : List Byte → Nat
  | [] => 0
  | b :: bs => b.toNat * (bs.length + 1) + blockWeighted bs

/-- The block step (R194): HI uses LO as it was at block entry. -/
def blockStep (blk : List Byte) (s : State) : State :=
  s.setSums
    (BitVec.ofNat 16 ((s.lo.toNat + blockSum blk) % BASE))
    (BitVec.ofNat 16 ((s.hi.toNat + blk.length * s.lo.toNat + blockWeighted blk) % BASE))

/-- `while pos < LEN`: one block of at most NMAX bytes after another (R192), at most `fuel` of them. -/
def blocks : Nat → Nat → State → State
  | 0, _, s => s
  | fuel + 1, pos, s =>
    if pos < s.len.toNat then
      let n := min NMAX (s.len.toNat - pos)
      blocks fuel (pos + n) (blockStep (s.bufSlice pos n) s)
    else s

/-- The effect of ADINIT (R191). -/
def checksumInit (s : State) : State := s.setSums 1#16 0#16

/-- The effect of ADUPD after its checks (R192). Each block has at least one byte, so LEN blocks are enough. -/
def checksumRun (s : State) : State := blocks s.len.toNat 0 s

/-- ADUPD (R192): both checks come before any effect. -/
def adupd (s : State) : State :=
  if LEN_LIMIT ≤ s.len.toNat then raise .badCfg s
  else if ¬s.bufInFb then raise .badAddr s
  else checksumRun s

/-- ADINIT (R191). -/
def execAdinit (s : State) : Result := command checksumInit s

/-- ADUPD (R192). -/
def execAdupd (s : State) : Result := command adupd s

end Sys2Proof.Machine
end

