-- ==== Sys2Proof/Machine/BitStream.lean ====
section
/-! DEFINITION. The Bit-Level Output Stream (`42_bitstream.md`): its three internal operations, and WRBITS, FLUSH, WRBE32
and BSCLR. -/

namespace Sys2Proof.Machine

/-! ### Internal operations (used by the commands and by ZCOMP) -/

/-- `while CNT >= 8: OutAppend(ACC[7:0]); ACC <- ACC >> 8; CNT <- CNT - 8` (R181), at most `fuel` times. -/
def drain : Nat → State → Appended
  | 0, s => .ok s
  | fuel + 1, s =>
    if 8 ≤ s.cnt then
      match outAppend (s.acc.setWidth 8) s with
      | .ok t => drain fuel (t.setBits (t.acc >>> 8) (t.cnt - 8))
      | .error t => .error t
    else .ok s

/-- `WriteBits(v, c)` (R181): the low `c` bits of `v`, above the pending bits; then full bytes leave. -/
def writeBits (v : Word) (c : Nat) (s : State) : Appended :=
  drain (s.cnt + c) (s.setBits (s.acc + (BitVec.ofNat 39 (v.toNat % 2 ^ c) <<< s.cnt)) (s.cnt + c))

/-- `FlushBits(f)` (R185): a partial byte is padded with zeros and appended; `f` only sets FIN. -/
def flushBits (final : Bool) (s : State) : Appended :=
  if 0 < s.cnt then
    match outAppend (s.acc.setWidth 8) s with
    | .ok t => .ok (markFinal final (t.setBits 0#39 0))
    | .error t => .error t
  else .ok (markFinal final s)

/-- `OutAppend` of each byte in turn. -/
def outAppendList : List Byte → State → Appended
  | [], s => .ok s
  | b :: bs, s =>
    match outAppend b s with
    | .ok t => outAppendList bs t
    | .error t => .error t

/-- The four bytes of a word, most significant first (`20_memory.md` R67). -/
def bigEndian (v : Word) : List Byte :=
  [v.extractLsb' 24 8, v.extractLsb' 16 8, v.extractLsb' 8 8, v.extractLsb' 0 8]

/-- `WriteBe32(v)` (R188): four whole bytes; ACC and CNT are neither read nor written. -/
def writeBe32 (v : Word) (s : State) : Appended := outAppendList (bigEndian v) s

/-! ### Commands -/

/-- WRBITS (R182): both checks come before any effect. -/
def wrbits (v : Word) (count : Nat) (s : State) : State :=
  if 32 < count then raise .badCount s
  else if exceedsCap ((s.cnt + count) / 8) s then raise .outFull s
  else settle (writeBits v count s)

/-- FLUSH (R184): the check comes before any effect. -/
def flush (final : Bool) (s : State) : State :=
  if 0 < s.cnt ∧ s.params.outCap = some s.out.length then raise .outFull s
  else settle (flushBits final s)

/-- WRBE32 (R186): alignment, then room, both before any effect. -/
def wrbe32 (v : Word) (s : State) : State :=
  if s.cnt ≠ 0 then raise .notAligned s
  else if exceedsCap 4 s then raise .outFull s
  else settle (writeBe32 v s)

/-- BSCLR (R187): OUT empty, ACC, CNT and FIN 0, nothing else. -/
def bsclr (s : State) : State := ((s.setOut []).setBits 0#39 0).setFin false

/-- WRBITS value, count (R182). -/
def execWrbits (value : Word) (count : Nat) (s : State) : Result := command (wrbits value count) s

/-- FLUSH final (R184). -/
def execFlush (final : Bool) (s : State) : Result := command (flush final) s

/-- WRBE32 value (R186). -/
def execWrbe32 (value : Word) (s : State) : Result := command (wrbe32 value) s

/-- BSCLR (R187). -/
def execBsclr (s : State) : Result := command bsclr s

end Sys2Proof.Machine
end

