-- ==== Sys2Proof/Machine/Huffman.lean ====
section
/-! DEFINITION. The codes of the output stream (`30_encoding.md` Part B, R93 to R101): the fixed literal/length code, the
length and distance bins, and how one item reaches the bit stream. -/

namespace Sys2Proof.Machine

/-- `BitRev(v, n)` (R104): bit `k` is bit `n - 1 - k` of `v`. -/
def bitRev : Nat → Nat → Nat
  | _, 0 => 0
  | v, n + 1 => (v % 2) * 2 ^ n + bitRev (v / 2) n

/-- `Code(s)` (R94). -/
def symCode (s : Nat) : Nat :=
  if s ≤ 143 then 0x30 + s
  else if s ≤ 255 then 0x190 + (s - 144)
  else if s ≤ 279 then s - 256
  else 0xC0 + (s - 280)

/-- `CodeLen(s)` (R94). -/
def symLen (s : Nat) : Nat :=
  if s ≤ 143 then 8 else if s ≤ 255 then 9 else if s ≤ 279 then 7 else 8

/-- `LenBase` with its closing sentinel (R96). -/
def lenBase : List Nat :=
  [3, 4, 5, 6, 7, 8, 9, 10, 11, 13, 15, 17, 19, 23, 27, 31, 35, 43, 51, 59, 67, 83, 99, 115, 131, 163, 195, 227, 258, 259]

/-- `LenExtra` (R96). -/
def lenExtra : List Nat :=
  [0, 0, 0, 0, 0, 0, 0, 0, 1, 1, 1, 1, 2, 2, 2, 2, 3, 3, 3, 3, 4, 4, 4, 4, 5, 5, 5, 5, 0]

/-- `DistBase` with its closing sentinel (R98). -/
def distBase : List Nat :=
  [1, 2, 3, 4, 5, 7, 9, 13, 17, 25, 33, 49, 65, 97, 129, 193, 257, 385, 513, 769, 1025, 1537, 2049, 3073, 4097, 6145,
   8193, 12289, 16385, 24577, 32769]

/-- `DistExtra` (R98). -/
def distExtra : List Nat :=
  [0, 0, 0, 0, 1, 1, 2, 2, 3, 3, 4, 4, 5, 5, 6, 6, 7, 7, 8, 8, 9, 9, 10, 10, 11, 11, 12, 12, 13, 13]

/-- The length bin of `L` (R97): the smallest `j` with `LenBase[j+1] > L`. -/
def lenBin (L : Nat) : Nat := (lenBase.drop 1).findIdx fun b => decide (L < b)

/-- The distance bin of `D` (R99): the smallest `k` with `DistBase[k+1] > D`. -/
def distBin (D : Nat) : Nat := (distBase.drop 1).findIdx fun b => decide (D < b)

/-- `PutSym(s)` (R95): the code enters the stream most significant bit first. -/
def putSym (sym : Nat) (s : State) : Appended :=
  writeBits (BitVec.ofNat 32 (bitRev (symCode sym) (symLen sym))) (symLen sym) s

/-- Extra bits (R97, R99, R100): a plain number, least significant bit first; none are written when the bin has none. -/
def putExtra (v n : Nat) (s : State) : Appended :=
  if 0 < n then writeBits (BitVec.ofNat 32 v) n s else .ok s

/-- A literal byte (`41_lz77_huffman.md` R155). -/
def putLiteral (b : Byte) (s : State) : Appended := putSym b.toNat s

/-- The length part of a match (R97, R151). -/
def putLength (L : Nat) (s : State) : Appended := do
  let s ← putSym (257 + lenBin L) s
  putExtra (L - lenBase.getD (lenBin L) 0) (lenExtra.getD (lenBin L) 0) s

/-- The distance part of a match (R99, R152): the bin index as a 5-bit code, reversed, then its extra bits. -/
def putDistance (D : Nat) (s : State) : Appended := do
  let s ← writeBits (BitVec.ofNat 32 (bitRev (distBin D) 5)) 5 s
  putExtra (D - distBase.getD (distBin D) 0) (distExtra.getD (distBin D) 0) s

/-- A match (R100): length, then distance. -/
def putMatch (L D : Nat) (s : State) : Appended := do
  let s ← putLength L s
  putDistance D s

end Sys2Proof.Machine
end

