-- ==== Sys2Proof/Machine/Lz77.lean ====
section
/-! DEFINITION. The LZ77 Match Finder and Fixed-Huffman Encoder (`41_lz77_huffman.md`): ZCOMP, part by part in execution
order. Throughout, `d[k]` is `s.bufAt k` and `size` is LEN. -/

namespace Sys2Proof.Machine

/-- `Q = min(max(QUALITY, 5), QMAX)`, QUALITY read as signed (R141). -/
def clampQuality (s : State) : Nat := (min (max s.quality.toInt (QMIN : Int)) (s.params.qmax : Int)).toNat

/-- The checks before any effect, in order (R142). -/
def zcompCheck (s : State) : Option CmdFault :=
  if LEN_LIMIT ≤ s.len.toNat then some .badCfg
  else if s.cnt ≠ 0 then some .notAligned
  else if ¬s.bufInFb then some .badAddr
  else none

/-! ### The hash (R145) -/

/-- The default HASH3 (R145), on unsigned 32-bit values with wrap-around. -/
def hashMix (b0 b1 b2 : Byte) : BitVec 14 :=
  let h : BitVec 32 := b0.setWidth 32 + (b1.setWidth 32 <<< 8) + (b2.setWidth 32 <<< 16)
  let h := h ^^^ (h <<< 3)
  let h := h + (h >>> 5)
  let h := h ^^^ (h <<< 4)
  let h := h + (h >>> 17)
  let h := h ^^^ (h <<< 25)
  let h := h + (h >>> 6)
  h.setWidth 14

/-- `HASH3` of this block: 0 to 16383. -/
def hash3 (f : HashFn) (b0 b1 b2 : Byte) : Nat :=
  match f with
  | .mix => (hashMix b0 b1 b2).toNat
  | .other => (Config.hash3 b0 b1 b2).toNat

/-- The bucket number of the three bytes at position `k`. -/
def hashAt (s : State) (k : Nat) : Nat := hash3 s.params.hash (s.bufAt k) (s.bufAt (k + 1)) (s.bufAt (k + 2))

/-! ### The hash table (`10_state.md` R45) -/

/-- The slots of bucket `h`: a bucket that is not listed holds -1 in its `2 * q` slots. -/
def bucketOf (q : Nat) : HashTable → Nat → List Int
  | [], _ => List.replicate (2 * q) (-1)
  | (k, b) :: t, h => if k = h then b else bucketOf q t h

/-- `HT[h] <- b`. -/
def setBucket : HashTable → Nat → List Int → HashTable
  | [], h, b => [(h, b)]
  | (k, c) :: t, h, b => if k = h then (h, b) :: t else (k, c) :: setBucket t h b

/-- The slots that are not -1 (R149). -/
def liveCount (b : List Int) : Nat := b.countP fun p => decide (p ≠ -1)

/-- Insertion into a bucket (R149): a full one first keeps its newest `q` entries, moved down. -/
def insertSlot (q : Nat) (b : List Int) (i : Int) : List Int :=
  if liveCount b = 2 * q then (b.drop q ++ List.replicate q (-1)).set q i
  else b.set (liveCount b) i

/-! ### The main loop -/

/-- `MatchLen` (R147): how many bytes from `p` on equal those from `j` on, at most `limit`. -/
def matchLen (d : Nat → Byte) : Nat → Nat → Nat → Nat
  | _, _, 0 => 0
  | p, j, limit + 1 => if d p = d j then matchLen d (p + 1) (j + 1) limit + 1 else 0

/-- The match length of candidate `p` at position `j`: within the buffer and at most 258 (R147). -/
def candLen (s : State) (p : Int) (j : Nat) : Nat :=
  matchLen s.bufAt p.toNat j (min (s.len.toNat - j) MAX_MATCH)

/-- Whether candidate `p` lies in the window of position `j`: `p > j - 32768`, signed (R148, R150). -/
def inWindow (p : Int) (j : Nat) : Bool := decide ((j : Int) - WINDOW < p)

/-- The probe loop (R148): slots from 0 up to the first -1; a candidate at least as long as BEST replaces it. -/
def probeSlots : List Int → State → State
  | [], s => s
  | p :: ps, s =>
    if p = -1 then s
    else if inWindow p s.lzI ∧ s.lzBest ≤ candLen s p s.lzI then
      probeSlots ps (s.setBest (candLen s p s.lzI) (some p.toNat))
    else probeSlots ps s

/-- The probe at I in bucket `h` (R148). -/
def probe (h : Nat) (s : State) : State :=
  probeSlots (bucketOf s.lzQ s.ht h) (s.setBest MIN_MATCH none)

/-- Insert I into bucket `h` (R149). -/
def insertPos (h : Nat) (s : State) : State :=
  s.setHt (setBucket s.ht h (insertSlot s.lzQ (bucketOf s.lzQ s.ht h) s.lzI))

/-- Whether some candidate for I + 1 is strictly longer than BEST (R150). -/
def longerAhead (s : State) : List Int → Bool
  | [] => false
  | p :: ps =>
    if p = -1 then false
    else if inWindow p (s.lzI + 1) ∧ s.lzBest < candLen s p (s.lzI + 1) then true
    else longerAhead s ps

/-- The lazy-match check (R150), only when there is a match; it only ever discards it. -/
def lazyCheck (s : State) : State :=
  if s.lzBestLoc ≠ none ∧ longerAhead s (bucketOf s.lzQ s.ht (hashAt s (s.lzI + 1))) then s.setBest s.lzBest none
  else s

/-- What an iteration decides before it emits: probe, insert, lazy check (R148 to R150). -/
def findMatch (s : State) : State := lazyCheck (insertPos (hashAt s s.lzI) (probe (hashAt s s.lzI) s))

/-- Emit the match or the literal at I, and advance (R151 to R155). -/
def emitAt (s : State) : Appended :=
  match s.lzBestLoc with
  | some p => do
    let t ← putMatch s.lzBest (s.lzI - p) s
    return t.setPos (t.lzI + t.lzBest)
  | none => do
    let t ← putLiteral (s.bufAt s.lzI) s
    return t.setPos (t.lzI + 1)

/-- `while I + 3 < LEN` (R146), at most `fuel` times; I grows in every iteration, so LEN times are enough (R153). -/
def mainLoop : Nat → State → Appended
  | 0, s => .ok s
  | fuel + 1, s =>
    if s.lzI + 3 < s.len.toNat then do
      let t ← emitAt (findMatch s)
      mainLoop fuel t
    else .ok s

/-- `while I < LEN`: the tail literals (R154), neither hashed nor inserted. -/
def tailLoop : Nat → State → Appended
  | 0, s => .ok s
  | fuel + 1, s =>
    if s.lzI < s.len.toNat then do
      let t ← putLiteral (s.bufAt s.lzI) s
      tailLoop fuel (t.setPos (t.lzI + 1))
    else .ok s

/-! ### The command -/

/-- The zlib header and the block header (R144; `30_encoding.md` R91, R92). -/
def zlibHeader (s : State) : Appended := do
  let s ← writeBits 0x78#32 8 s
  let s ← writeBits 0x5E#32 8 s
  let s ← writeBits 1#32 1 s
  writeBits 1#32 2 s

/-- The trailer (R158): the checksum of the whole buffer, left in LO and HI, and appended big-endian. -/
def zlibTrailer (s : State) : Appended :=
  writeBe32 (checksumRun (checksumInit s)).adler (checksumRun (checksumInit s))

/-- ZCOMP from the quality clamp on (R140), after its checks. `ht := []` is -1 in every slot (R143). -/
def zcompStream (s : State) : Appended := do
  let s ← zlibHeader ((s.setQ (clampQuality s)).setHt [])
  let s ← mainLoop s.len.toNat (s.setPos 0)
  let s ← tailLoop s.len.toNat s
  let s ← putSym 256 s
  let s ← flushBits true s
  zlibTrailer s

/-- HT is unspecified after ZCOMP (`10_state.md` R45): a free value (log entry 7). -/
def forgetTable (s : State) : State := (s.setHt (Config.freeHt s.freeCtr)).setFreeCtr (s.freeCtr + 1)

/-- What OUT_FULL inside ZCOMP leaves (R161): OUT as it is; ACC, CNT, FIN, LO, HI and HT free values (log entry 6). -/
def abandon (s : State) : State :=
  forgetTable
    (((s.setBits (Config.freeAcc s.freeCtr) (Config.freeCnt s.freeCtr).toNat).setFin (Config.freeFin s.freeCtr)).setSums
      (Config.freeLo s.freeCtr) (Config.freeHi s.freeCtr))

/-- ZCOMP (R140, R142, R161). -/
def zcomp (s : State) : State :=
  match zcompCheck s with
  | some f => raise f s
  | none =>
    match zcompStream s with
    | .ok t => forgetTable t
    | .error t => raise .outFull (abandon t)

/-- ZCOMP (R140). -/
def execZcomp (s : State) : Result := command zcomp s

end Sys2Proof.Machine
end

