-- ==== Sys2Proof/Machine/RowFilter.lean ====
section
/-! DEFINITION. The Row Filter Engine (`40_row_filter.md`): FLT.NONE, FLT.SUB, FLT.UP, FLT.AVG, FLT.PAETH, FLT.AUTO. -/

namespace Sys2Proof.Machine

/-- A filter kind (R124). -/
inductive FilterKind where
  | none
  | sub
  | up
  | avg
  | paeth
  deriving DecidableEq, Repr

/-- The kind numbers 0 to 4 (R124). -/
def kindNum : FilterKind → Nat
  | .none => 0
  | .sub => 1
  | .up => 2
  | .avg => 3
  | .paeth => 4

/-! ### Neighbour bytes (R122); `n` is BPP -/

/-- `x(i)`: the byte being filtered. -/
def rowX (s : State) (i : Nat) : Byte := s.pixAt (s.src.toNat + i)

/-- `a(i)`: the previous pixel, same row; 0 in the first pixel. -/
def rowA (s : State) (i : Nat) : Byte :=
  if s.bpp.toNat ≤ i then s.pixAt (s.src.toNat + i - s.bpp.toNat) else 0#8

/-- `b(i)`: the same column, previous row; 0 when ROW is 0. -/
def rowB (s : State) (i : Nat) : Byte :=
  if s.row ≠ 0#32 then s.pixAt (s.src.toNat - s.stride.toNat + i) else 0#8

/-- `c(i)`: the previous pixel, previous row; 0 when either condition holds. -/
def rowC (s : State) (i : Nat) : Byte :=
  if s.row ≠ 0#32 ∧ s.bpp.toNat ≤ i then s.pixAt (s.src.toNat - s.stride.toNat + i - s.bpp.toNat) else 0#8

/-! ### Predictors, filtered bytes, cost -/

/-- `Paeth(a, b, c)` (R123), on signed integers that do not wrap; ties go to `a`, then `b`. -/
def paeth (a b c : Byte) : Byte :=
  let p : Int := (a.toNat : Int) + b.toNat - c.toNat
  let pa := (p - a.toNat).natAbs
  let pb := (p - b.toNat).natAbs
  let pc := (p - c.toNat).natAbs
  if pa ≤ pb ∧ pa ≤ pc then a else if pb ≤ pc then b else c

/-- The predictor from the neighbour bytes (R124). The sum inside Average is 9 bits wide before the shift. -/
def predict (k : FilterKind) (a b c : Byte) : Byte :=
  match k with
  | .none => 0#8
  | .sub => a
  | .up => b
  | .avg => BitVec.ofNat 8 ((a.toNat + b.toNat) >>> 1)
  | .paeth => paeth a b c

/-- `Pred(k, i)` (R124). -/
def rowPred (s : State) (k : FilterKind) (i : Nat) : Byte := predict k (rowA s i) (rowB s i) (rowC s i)

/-- `F(k, i) = (x(i) - Pred(k, i)) mod 256` (R125). -/
def filtered (s : State) (k : FilterKind) (i : Nat) : Byte := rowX s i - rowPred s k i

/-- `abs(sext_8(v))`: 0 to 128 (R126). -/
def byteCost (v : Byte) : Nat := v.toInt.natAbs

/-- The FilteredBuffer of kind `k`: SIZE bytes. -/
def filteredRow (s : State) (k : FilterKind) : List Byte := (List.range s.size.toNat).map (filtered s k)

/-- `Cost(k)` (R126): the sum over the FilteredBuffer. -/
def rowCost (s : State) (k : FilterKind) : Nat := ((filteredRow s k).map byteCost).sum

/-! ### The commands -/

/-- The checks of every FLT command, in order (R121). -/
def rowCheck (s : State) : Option CmdFault :=
  if ¬(1 ≤ s.bpp.toNat ∧ s.bpp.toNat ≤ 8) then some .badCfg
  else if ¬(s.bpp.toNat ≤ s.size.toNat ∧ s.size.toNat ≤ MAX_ROW) then some .badCfg
  else if ¬(s.rowInPix ∧ s.prevRowInPix ∧ s.rowInFb) then some .badAddr
  else none

/-- `Apply(k)` (R133): the FilteredBuffer to FB from DST on, its cost to COST, `k` to KIND. -/
def applyKind (k : FilterKind) (s : State) : State :=
  s.setRow (Memory.writeList s.fbBg s.fb s.dst.toNat (filteredRow s k))
    (BitVec.ofNat 32 (rowCost s k)) (BitVec.ofNat 3 (kindNum k))

/-- An FLT command that picks its kind with `sel`: the checks, then `Apply`. -/
def filterRow (sel : State → FilterKind) (s : State) : State :=
  match rowCheck s with
  | some f => raise f s
  | none => applyKind (sel s) s

/-- The candidates of FLT.AUTO (R131): the kinds whose bit of `FSEL[4:0]` is set, in increasing number. -/
def candidates (s : State) : List FilterKind :=
  [FilterKind.none, .sub, .up, .avg, .paeth].filter fun k => s.fsel.getLsbD (kindNum k)

/-- The first of the cheapest of `best` and the listed kinds. -/
def cheapest (cost : FilterKind → Nat) : FilterKind → List FilterKind → FilterKind
  | best, [] => best
  | best, k :: ks => cheapest cost (if cost k < cost best then k else best) ks

/-- `k*` (R131): the candidate of least cost, the least number among equals; None when there is no candidate. -/
def autoKind (s : State) : FilterKind :=
  match candidates s with
  | [] => .none
  | k :: ks => cheapest (rowCost s) k ks

/-- FLT.NONE (R127). -/
def execFltNone (s : State) : Result := command (filterRow fun _ => .none) s

/-- FLT.SUB (R128). -/
def execFltSub (s : State) : Result := command (filterRow fun _ => .sub) s

/-- FLT.UP (R129). -/
def execFltUp (s : State) : Result := command (filterRow fun _ => .up) s

/-- FLT.AVG (R130). -/
def execFltAvg (s : State) : Result := command (filterRow fun _ => .avg) s

/-- FLT.PAETH (R132). -/
def execFltPaeth (s : State) : Result := command (filterRow fun _ => .paeth) s

/-- FLT.AUTO (R131). -/
def execFltAuto (s : State) : Result := command (filterRow autoKind) s

end Sys2Proof.Machine
end

