-- ==== Sys2Proof/Machine/Dispatch.lean ====
section
/-! DEFINITION. The dispatch: one arm per command, each a direct call of its meaning. -/

namespace Sys2Proof.Machine

/-- What a command does (`30_encoding.md` R85). -/
def exec (i : Instr) (s : State) : Host.Outcome State Fault Refusal :=
  match i with
  | .fltNone => Sys2Proof.Machine.execFltNone s
  | .fltSub => Sys2Proof.Machine.execFltSub s
  | .fltUp => Sys2Proof.Machine.execFltUp s
  | .fltAvg => Sys2Proof.Machine.execFltAvg s
  | .fltPaeth => Sys2Proof.Machine.execFltPaeth s
  | .fltAuto => Sys2Proof.Machine.execFltAuto s
  | .zcomp => Sys2Proof.Machine.execZcomp s
  | .wrbits value count => Sys2Proof.Machine.execWrbits value count s
  | .flush final => Sys2Proof.Machine.execFlush final s
  | .wrbe32 value => Sys2Proof.Machine.execWrbe32 value s
  | .bsclr => Sys2Proof.Machine.execBsclr s
  | .adinit => Sys2Proof.Machine.execAdinit s
  | .adupd => Sys2Proof.Machine.execAdupd s

end Sys2Proof.Machine
end

