-- ==== Sys2Proof/Machine/HostOps.lean ====
section
/-! DEFINITION. The host operations (`44_host_interface.md` R200 to R208): what each does to the block and what the host
gets back. -/

namespace Sys2Proof.Machine

/-- The host gets `r` back. -/
def answer (r : Reply) (s : State) : State := s.setReplies (r :: s.replies)

/-- `CMD(w)` (R201): ignored when FAULTED; an illegal word raises ILLEGAL_CMD; else the command's rule. -/
def runCmd (w : CmdWord) (s : State) : Result :=
  if s.err ≠ 0#4 then .next s
  else
    match decode w with
    | .illegal _ => .next (raise .illegalCmd s)
    | .instr i => exec i s

/-- One host operation. Reads change nothing (R202, R207; `20_memory.md` R69); what does not exist answers a bus error and
changes nothing (R204). All but CMD work alike in the FAULTED state (`60_exceptions.md` R230). -/
def perform (op : HostOp) (s : State) : Result :=
  match op with
  | .cmd w => runCmd w (answer .done s)
  | .regrd r =>
    match readReg r s with
    | some v => .next (answer (.reg v) s)
    | none => .next (answer .busError s)
  | .regwr r v =>
    match writeReg r v s with
    | some t => .next (answer .done t)
    | none => .next (answer .busError s)
  | .pixwr a b => .next (if a < s.params.pixSize then answer .done (s.pixPut a b) else answer .busError s)
  | .pixrd a => .next (if a < s.params.pixSize then answer (.byte (s.pixAt a)) s else answer .busError s)
  | .fbwr a b => .next (if a < s.params.fbSize then answer .done (s.fbPut a b) else answer .busError s)
  | .fbrd a => .next (if a < s.params.fbSize then answer (.byte (s.fbAt a)) s else answer .busError s)
  | .outrd k =>
    match s.out[k]? with
    | some b => .next (answer (.byte b) s)
    | none => .next (answer .busError s)
  | .reset => .next (answer .done (resetBlock s))

/-- The next thing that happens (R73, R200): the host's next operation takes effect completely; with none pending the
block is idle and waits (R241). -/
def nextOp (s : State) : Result :=
  match s.hostOps with
  | [] => .next s
  | op :: ops => perform op (s.setHostOps ops)

end Sys2Proof.Machine
end

