-- ==== Sys2Proof/Machine/Step.lean ====
section
/-! DEFINITION. The step of the machine, and how a command word is put where the next step takes it from. -/

namespace Sys2Proof.Machine

/-- One step: the next host operation (`44_host_interface.md` R200). -/
def step (s : State) : Host.Outcome State Fault Refusal := nextOp s

/-- `s` with CMD of that word as the host's next operation: the block fetches nothing, the host hands it each command
(R201; `20_memory.md` R76; log entry 1). -/
def State.withFetchWord (s : State) (nbits w : Nat) : State :=
  s.setHostOps (.cmd (tableCmdWord nbits w) :: s.hostOps)

end Sys2Proof.Machine
end

