-- ==== Sys2Proof/Safety.lean ====
section
/-! DEFINITION. The terms that claims about the block are stated in: its invariant, the bit sequence of the output stream,
the reference checksum, and what a zlib stream of this encoder means (with the decoder that reads it back). Nothing here is
used by the machine. -/

namespace Sys2Proof.Machine

/-- OUT has room for `n` more bytes (R227). -/
abbrev State.RoomFor (s : State) (n : Nat) : Prop := ∀ cap ∈ s.params.outCap, s.out.length + n ≤ cap

/-- The invariant of a block. OUT_FULL inside ZCOMP may leave ACC, LO and HI unspecified (R161); otherwise they are in
range between commands. -/
structure State.Inv (s : State) : Prop where
  /-- the parameters are legal (R6) -/
  legal : s.params.Legal
  /-- PIX is in canonical form -/
  pixWf : Memory.wf s.pixBg s.pix
  /-- no byte outside PIX is listed (R60) -/
  pixWithin : Memory.within s.params.pixSize s.pix
  /-- FB is in canonical form -/
  fbWf : Memory.wf s.fbBg s.fb
  /-- no byte outside FB is listed (R60) -/
  fbWithin : Memory.within s.params.fbSize s.fb
  /-- OUT is within OUT_CAP (R63) -/
  outFits : s.RoomFor 0
  /-- CNT is 0 to 7 (R40) -/
  cntLe : s.cnt ≤ 7
  /-- codes 7 to 15 are never produced (R221) -/
  errLe : s.err.toNat ≤ 6
  /-- KIND is a filter kind (R36) -/
  kindLe : s.kind.toNat ≤ 4
  /-- COST is at most 2^31 (R35) -/
  costLe : s.cost.toNat ≤ 2 ^ 31
  /-- bits of ACC at and above CNT are 0 (R40) -/
  accLt : s.err ≠ faultCode .outFull → s.acc.toNat < 2 ^ s.cnt
  /-- LO is reduced (R43) -/
  loLt : s.err ≠ faultCode .outFull → s.lo.toNat < BASE
  /-- HI is reduced (R43) -/
  hiLt : s.err ≠ faultCode .outFull → s.hi.toNat < BASE

/-- The block is not FAULTED (`60_exceptions.md` R230). -/
abbrev State.Ready (s : State) : Prop := s.err = 0#4

/-- Every check of an FLT command passes (`40_row_filter.md` R121). -/
abbrev State.RowOk (s : State) : Prop :=
  1 ≤ s.bpp.toNat ∧ s.bpp.toNat ≤ 8 ∧ s.bpp.toNat ≤ s.size.toNat ∧ s.size.toNat ≤ MAX_ROW ∧
  s.rowInPix ∧ s.prevRowInPix ∧ s.rowInFb

/-- The buffer `d[0 .. LEN-1]` of ZCOMP and ADUPD. -/
def State.buffer (s : State) : List Byte := s.bufSlice 0 s.len.toNat

/-- The six commands of unit RF (`40_row_filter.md`). -/
def filters : List Instr := [.fltNone, .fltSub, .fltUp, .fltAvg, .fltPaeth, .fltAuto]

/-- The fixed-filter command of a kind (R127 to R132). -/
def fixedFilter : FilterKind → Instr
  | .none => .fltNone
  | .sub => .fltSub
  | .up => .fltUp
  | .avg => .fltAvg
  | .paeth => .fltPaeth

/-- `t` is `s` after a row of kind `k` with bytes `f 0, f 1, ...` was written (`40_row_filter.md` R133): FB from DST on,
COST the sum of the bytes' signed absolute values (R126, in its second form), KIND; every other byte and field as in `s`. -/
def wroteRow (s t : State) (k : FilterKind) (f : Nat → Byte) : Prop :=
  t = { s with fb := t.fb, cost := t.cost, kind := BitVec.ofNat 3 (kindNum k) } ∧
  (∀ i, i < s.size.toNat → t.fbAt (s.dst.toNat + i) = f i) ∧
  (∀ a, a < s.dst.toNat ∨ s.dst.toNat + s.size.toNat ≤ a → t.fbAt a = s.fbAt a) ∧
  t.cost.toNat =
    ((List.range s.size.toNat).map fun i => if (f i).toNat < 128 then (f i).toNat else 256 - (f i).toNat).sum

/-! ### The output stream as bits (`42_bitstream.md` R180) -/

/-- The low `n` bits of a number, bit 0 first. -/
def numBits (v n : Nat) : List Bool := (List.range n).map v.testBit

/-- An `n`-bit code, most significant bit first (`30_encoding.md` R93). -/
def codeBits (code n : Nat) : List Bool := (List.range n).map fun k => code.testBit (n - 1 - k)

/-- `bits(b)`: bit 0 to bit 7 (R180). -/
def byteBits (b : Byte) : List Bool := numBits b.toNat 8

/-- The bit sequence `S` that OUT and ACC represent (R180). -/
def State.streamBits (s : State) : List Bool := s.out.flatMap byteBits ++ numBits s.acc.toNat s.cnt

/-! ### The reference checksum (`43_adler32.md` R190) -/

/-- `Run((lo, hi), d)`, byte by byte. -/
def adlerRun : Nat × Nat → List Byte → Nat × Nat
  | p, [] => p
  | (lo, hi), b :: bs => adlerRun ((lo + b.toNat) % BASE, (hi + (lo + b.toNat) % BASE) % BASE) bs

/-- The Adler-32 of a byte sequence: `(hi << 16) | lo` from `(1, 0)`. -/
def adler32 (d : List Byte) : Word := BitVec.ofNat 32 ((adlerRun (1, 0) d).2 * 65536 + (adlerRun (1, 0) d).1)

/-! ### What the encoder's items mean -/

/-- What the loop of ZCOMP emits: a literal byte, or a match of length `L` at distance `D`. -/
inductive Item where
  | lit (b : Byte)
  | copy (L D : Nat)
  deriving DecidableEq, Repr

/-- The bits of one item (`30_encoding.md` R93 to R100). -/
def itemBits : Item → List Bool
  | .lit b => codeBits (symCode b.toNat) (symLen b.toNat)
  | .copy L D =>
    codeBits (symCode (257 + lenBin L)) (symLen (257 + lenBin L)) ++
    numBits (L - lenBase.getD (lenBin L) 0) (lenExtra.getD (lenBin L) 0) ++
    codeBits (distBin D) 5 ++
    numBits (D - distBase.getD (distBin D) 0) (distExtra.getD (distBin D) 0)

/-- How many bytes an item stands for. -/
def itemLen : Item → Nat
  | .lit _ => 1
  | .copy L _ => L

/-- The item at I that the match finder decides on (`41_lz77_huffman.md` R148 to R152, R155). -/
def itemAt (s : State) : Item :=
  match (findMatch s).lzBestLoc with
  | some p => .copy (findMatch s).lzBest (s.lzI - p)
  | none => .lit (s.bufAt s.lzI)

/-- The items from I on (R146, R153, R154): what the match finder decides while `I + 3 < LEN`, then literals, at most
`fuel` of them. -/
def decidedItems : Nat → State → List Item
  | 0, _ => []
  | fuel + 1, s =>
    if s.lzI + 3 < s.len.toNat then
      itemAt s :: decidedItems fuel ((findMatch s).setPos (s.lzI + itemLen (itemAt s)))
    else if s.lzI < s.len.toNat then .lit (s.bufAt s.lzI) :: decidedItems fuel (s.setPos (s.lzI + 1))
    else []

/-- Append `n` bytes, each the one `D` before the end; source and target may overlap. -/
def copyBack (D : Nat) : Nat → List Byte → List Byte
  | 0, out => out
  | n + 1, out => copyBack D n (out ++ [out.getD (out.length - D) 0#8])

/-- The bytes that items stand for, after the bytes `out`. -/
def expandItems : List Byte → List Item → List Byte
  | out, [] => out
  | out, .lit b :: is => expandItems (out ++ [b]) is
  | out, .copy L D :: is => expandItems (copyBack D L out) is

/-- Every match has `3 ≤ L ≤ 258` and `1 ≤ D ≤ 32767`, and reaches back to no byte before the start
(`41_lz77_huffman.md` R159); `n` bytes precede the items. -/
def itemsLegal : Nat → List Item → Prop
  | _, [] => True
  | n, .lit _ :: is => itemsLegal (n + 1) is
  | n, .copy L D :: is =>
    (MIN_MATCH ≤ L ∧ L ≤ MAX_MATCH ∧ 1 ≤ D ∧ D ≤ MAX_DIST ∧ D ≤ n) ∧ itemsLegal (n + L) is

/-! ### A decoder of one fixed-Huffman zlib stream, the reading of R90 to R103 backwards -/

/-- Read an `n`-bit number, bit 0 first. -/
def takeNum : Nat → List Bool → Option (Nat × List Bool)
  | 0, bits => some (0, bits)
  | _ + 1, [] => none
  | n + 1, b :: bits => (takeNum n bits).map fun p => (b.toNat + 2 * p.1, p.2)

/-- Read an `n`-bit code, most significant bit first, onto `v`. -/
def takeCode : Nat → Nat → List Bool → Option (Nat × List Bool)
  | 0, v, bits => some (v, bits)
  | _ + 1, _, [] => none
  | n + 1, v, b :: bits => takeCode n (2 * v + b.toNat) bits

/-- Read a literal/length symbol: the one whose code the bits begin with (R94). -/
def takeSym (bits : List Bool) : Option (Nat × List Bool) :=
  ((List.range 288).find? fun s => (codeBits (symCode s) (symLen s)).isPrefixOf bits).map fun s =>
    (s, bits.drop (symLen s))

/-- Read the rest of a match whose length symbol was `sym` (R96 to R99): its length and its distance. -/
def takeCopy (sym : Nat) (bits : List Bool) : Option ((Nat × Nat) × List Bool) :=
  if 285 < sym then none
  else
    (takeNum (lenExtra.getD (sym - 257) 0) bits).bind fun le =>
      (takeCode 5 0 le.2).bind fun k =>
        if 29 < k.1 then none
        else
          (takeNum (distExtra.getD k.1 0) k.2).map fun de =>
            ((lenBase.getD (sym - 257) 0 + le.1, distBase.getD k.1 0 + de.1), de.2)

/-- Read symbols until end-of-block (R101), at most `fuel` of them: the bytes, and the bits that follow. -/
def inflate : Nat → List Byte → List Bool → Option (List Byte × List Bool)
  | 0, _, _ => none
  | fuel + 1, out, bits =>
    match takeSym bits with
    | none => none
    | some (sym, rest) =>
      if sym < 256 then inflate fuel (out ++ [BitVec.ofNat 8 sym]) rest
      else if sym = 256 then some (out, rest)
      else
        match takeCopy sym rest with
        | none => none
        | some ((len, dist), rest) => if dist ≤ out.length then inflate fuel (copyBack dist len out) rest else none

/-- Decode a whole zlib stream: header 78 5E, BFINAL 1, BTYPE 01, the block, padding, and the Adler-32 of what came out. -/
def zlibDecode : List Byte → Option (List Byte)
  | 0x78#8 :: 0x5E#8 :: body =>
    match body.flatMap byteBits with
    | true :: true :: false :: bits =>
      match inflate (bits.length + 1) [] bits with
      | some (out, rest) =>
        if body.drop (body.length - rest.length / 8) = bigEndian (adler32 out) then some out else none
      | none => none
    | _ => none
  | _ => none

end Sys2Proof.Machine
end

