-- ==== Sys2Proof/Certificates/Slice0/Obligations.lean ====
section
/-! DEFINITION. The statements for the provers. Each docstring names the rules of `spec/` it formalises. -/

open Sys2Proof Sys2Proof.Machine

/-! ### Command words (`30_encoding.md`, Part A) -/

/-- R80 to R85, R87: decoding the word of a well-formed command gives that command back, every operand at every value its
field admits. -/
def Obligations.DecodeOfEncodeIsTheCommand : Prop :=
  ∀ i : Instr, WellFormed i = true → decode (encode i) = .instr i

/-- R80 to R87: a word that decodes is the word of the command it decodes to, which is well formed: no bit is dropped. -/
def Obligations.EncodeOfDecodeIsTheWord : Prop :=
  ∀ (w : CmdWord) (i : Instr), decode w = .instr i → WellFormed i = true ∧ encode i = w

/-- R86: a word selects exactly one row of the opcode map, the row of the command it decodes to, or no row, and then it is
illegal and raises ILLEGAL_CMD, changing nothing else (of the block; the host's operation completes). -/
def Obligations.WordSelectsOneCommandOrIsIllegal : Prop :=
  ∀ w : CmdWord,
    (∃ i, decode w = .instr i ∧
      (opcodeMap.filter fun r => w &&& r.mask == r.code).map OpRow.mnemonic = [mnemonicOf i]) ∨
    (∃ why, decode w = .illegal why ∧ (opcodeMap.filter fun r => w &&& r.mask == r.code) = [] ∧
      ∀ (s : State) (ops : List HostOp), s.Ready → s.hostOps = .cmd w :: ops →
        step s = .next { s with hostOps := ops, replies := .done :: s.replies, err := 1#4 })

/-- R85, R86 on words written out in `95_test_vectors.md` (S7, S8). -/
def Obligations.SpecWordsDecodeAsPrinted : Prop :=
  decode 0x3000000800000078#64 = .instr (.wrbits 0x78#32 8) ∧
  decode 0x3000002100000000#64 = .instr (.wrbits 0#32 33) ∧
  decode 0x3100000100000000#64 = .instr (.flush true) ∧
  decode 0x32000000DEADBEEF#64 = .instr (.wrbe32 0xDEADBEEF#32) ∧
  decode 0x1800000000000000#64 = .instr .fltAuto ∧
  decode 0x2000000000000000#64 = .instr .zcomp ∧
  decode 0x4000000000000000#64 = .instr .adinit ∧
  decode 0x4100000000000000#64 = .instr .adupd ∧
  decode 0x0000000000000000#64 = .illegal (.unknownOpcode 0x00#8) ∧
  decode 0x1500000000000000#64 = .illegal (.unknownOpcode 0x15#8) ∧
  decode 0x1000000000000001#64 = .illegal (.fixedBitNonzero 0x10#8) ∧
  decode 0x3100000200000000#64 = .illegal (.fixedBitNonzero 0x31#8) ∧
  decode 0x3200000100000000#64 = .illegal (.fixedBitNonzero 0x32#8) ∧
  decode 0x3040000000000000#64 = .illegal (.fixedBitNonzero 0x30#8)

/-! ### Host operations and steps (`44_host_interface.md`) -/

/-- R201: CMD(w). A FAULTED block ignores the word; an illegal word raises ILLEGAL_CMD; a legal one runs its command. What
the step adds around `exec`: the operation leaves the host's queue and the host gets "done" back. -/
def Obligations.CmdRunsTheDecodedInstruction : Prop :=
  ∀ (s : State) (w : CmdWord) (ops : List HostOp), s.hostOps = .cmd w :: ops →
    let s0 : State := { s with hostOps := ops, replies := .done :: s.replies }
    (s.err ≠ 0#4 → step s = .next s0) ∧
    (∀ why, s.err = 0#4 → decode w = .illegal why → step s = .next { s0 with err := 1#4 }) ∧
    (∀ i, s.err = 0#4 → decode w = .instr i → step s = exec i s0)

/-- R201, R76 (log entry 1): a word placed with `withFetchWord` is what the very next step runs. -/
def Obligations.FetchWordRunsNext : Prop :=
  ∀ (s : State) (nbits w : Nat) (i : Instr), s.err = 0#4 → decodeTableWord nbits w = some i →
    step (s.withFetchWord nbits w) = exec i { s with replies := .done :: s.replies }

/-- R200, R241, R252: every step answers a next state; with no operation pending the block waits. -/
def Obligations.EveryStepAnswersANextState : Prop :=
  ∀ s : State, (∃ t, step s = .next t) ∧ (s.hostOps = [] → step s = .next s)

/-- R202 with R24 to R39: the value of each register, and that REGRD returns it and changes nothing else. (OUTLEN for 2^32
bytes or more is a free value, log entry 26: nothing is said of it.) -/
def Obligations.RegrdReturnsTheRegister : Prop :=
  ∀ s : State,
    readReg 0x00 s = some s.src ∧ readReg 0x01 s = some s.stride ∧ readReg 0x02 s = some s.bpp ∧
    readReg 0x03 s = some s.size ∧ readReg 0x04 s = some s.row ∧ readReg 0x05 s = some s.dst ∧
    readReg 0x06 s = some s.fsel ∧ readReg 0x07 s = some s.data ∧ readReg 0x08 s = some s.len ∧
    readReg 0x09 s = some s.quality ∧
    readReg 0x10 s = some (BitVec.ofNat 32 (s.err.toNat + if s.fin then 16 else 0)) ∧
    readReg 0x11 s = some s.cost ∧
    readReg 0x12 s = some (BitVec.ofNat 32 s.kind.toNat) ∧
    readReg 0x13 s = some (BitVec.ofNat 32 (s.hi.toNat * 65536 + s.lo.toNat)) ∧
    (s.out.length < 2 ^ 32 → readReg 0x14 s = some (BitVec.ofNat 32 s.out.length)) ∧
    readReg 0x15 s = some (BitVec.ofNat 32 (s.cnt % 8)) ∧
    ∀ (r : Nat) (v : Word) (ops : List HostOp), s.hostOps = .regrd r :: ops → readReg r s = some v →
      step s = .next { s with hostOps := ops, replies := .reg v :: s.replies }

/-- R203: REGWR stores all 32 bits in a configuration register and changes no other; a read-only register ignores it; an
unimplemented one is a bus error. In every state, FAULTED or not. -/
def Obligations.RegwrStoresOrIsIgnored : Prop :=
  ∀ (s : State) (r : Nat) (v : Word) (ops : List HostOp), s.hostOps = .regwr r v :: ops →
    (r ≤ 0x09 → ∃ t, step s = .next t ∧ readReg r t = some v ∧ (∀ r', r' ≠ r → readReg r' t = readReg r' s) ∧
      t = { s with
        src := t.src, stride := t.stride, bpp := t.bpp, size := t.size, row := t.row, dst := t.dst, fsel := t.fsel,
        data := t.data, len := t.len, quality := t.quality, hostOps := ops, replies := .done :: s.replies }) ∧
    (0x10 ≤ r ∧ r ≤ 0x15 → step s = .next { s with hostOps := ops, replies := .done :: s.replies }) ∧
    ((0x0A ≤ r ∧ r ≤ 0x0F) ∨ 0x16 ≤ r → step s = .next { s with hostOps := ops, replies := .busError :: s.replies })

/-- R204: what does not exist answers a bus error and changes no state of the block. -/
def Obligations.BusErrorsChangeNothing : Prop :=
  ∀ (s : State) (op : HostOp) (ops : List HostOp), s.hostOps = op :: ops →
    ((∃ r, op = .regrd r ∧ ((0x0A ≤ r ∧ r ≤ 0x0F) ∨ 0x16 ≤ r)) ∨
     (∃ r v, op = .regwr r v ∧ ((0x0A ≤ r ∧ r ≤ 0x0F) ∨ 0x16 ≤ r)) ∨
     (∃ a, op = .pixrd a ∧ s.params.pixSize ≤ a) ∨ (∃ a b, op = .pixwr a b ∧ s.params.pixSize ≤ a) ∨
     (∃ a, op = .fbrd a ∧ s.params.fbSize ≤ a) ∨ (∃ a b, op = .fbwr a b ∧ s.params.fbSize ≤ a) ∨
     (∃ k, op = .outrd k ∧ s.out.length ≤ k)) →
    step s = .next { s with hostOps := ops, replies := .busError :: s.replies }

/-- R205, R206: PIXWR and FBWR write one byte and no other; PIXRD and FBRD return the byte and change nothing. -/
def Obligations.HostReadsAndWritesBytes : Prop :=
  ∀ (s : State) (ops : List HostOp), s.Inv →
    (∀ a b, s.hostOps = .pixwr a b :: ops → a < s.params.pixSize → ∃ t, step s = .next t ∧
      t = { s with pix := t.pix, hostOps := ops, replies := .done :: s.replies } ∧
      t.pixAt a = b ∧ ∀ a', a' ≠ a → t.pixAt a' = s.pixAt a') ∧
    (∀ a b, s.hostOps = .fbwr a b :: ops → a < s.params.fbSize → ∃ t, step s = .next t ∧
      t = { s with fb := t.fb, hostOps := ops, replies := .done :: s.replies } ∧
      t.fbAt a = b ∧ ∀ a', a' ≠ a → t.fbAt a' = s.fbAt a') ∧
    (∀ a, s.hostOps = .pixrd a :: ops → a < s.params.pixSize →
      step s = .next { s with hostOps := ops, replies := .byte (s.pixAt a) :: s.replies }) ∧
    (∀ a, s.hostOps = .fbrd a :: ops → a < s.params.fbSize →
      step s = .next { s with hostOps := ops, replies := .byte (s.fbAt a) :: s.replies })

/-- R207: OUTRD returns the byte and consumes nothing. -/
def Obligations.OutrdReturnsTheByte : Prop :=
  ∀ (s : State) (k : Nat) (ops : List HostOp), s.hostOps = .outrd k :: ops → (h : k < s.out.length) →
    step s = .next { s with hostOps := ops, replies := .byte s.out[k] :: s.replies }

/-! ### Reset (`70_reset_and_hazards.md`) -/

/-- R53: the values that the table of R53 gives, for every block, and what the registers then read. -/
def Obligations.ResetValuesAreTheSpecs : Prop :=
  ∀ p : Params, let s := State.init p
    s.src = 0#32 ∧ s.stride = 0#32 ∧ s.bpp = 0#32 ∧ s.size = 0#32 ∧ s.row = 0#32 ∧ s.dst = 0#32 ∧ s.fsel = 0#32 ∧
    s.data = 0#32 ∧ s.len = 0#32 ∧ s.quality = 0#32 ∧ s.err = 0#4 ∧ s.fin = false ∧ s.cost = 0#32 ∧ s.kind = 0#3 ∧
    s.lo = 1#16 ∧ s.hi = 0#16 ∧ s.out = [] ∧ s.acc = 0#39 ∧ s.cnt = 0 ∧
    readReg 0x10 s = some 0#32 ∧ readReg 0x13 s = some 0x00000001#32 ∧ readReg 0x14 s = some 0#32 ∧
    readReg 0x15 s = some 0#32 ∧ State.reset = State.init Config.params

/-- R208, R240: RESET puts the block in its reset state, whatever it held, and PIX and FB keep their bytes. (HT and the
transients take the model's named values, log entries 7 and 8.) -/
def Obligations.ResetRestoresAllButMemories : Prop :=
  ∀ (s : State) (ops : List HostOp), s.hostOps = .reset :: ops → ∃ t, step s = .next t ∧
    t = { State.init s.params with
      pix := s.pix, fb := s.fb, hostOps := ops, replies := .done :: s.replies, freeCtr := s.freeCtr } ∧
    (∀ a, t.pixAt a = s.pixAt a ∧ t.fbAt a = s.fbAt a) ∧ t.Ready

/-- R6, R40, R43, R53: a block with legal parameters meets the invariant right after reset; so does the model's. -/
def Obligations.ResetMeetsTheInvariant : Prop :=
  (∀ p : Params, p.Legal → (State.init p).Inv) ∧ State.reset.Inv

/-- R35, R36, R40, R42, R43, R63, R78: every step keeps the invariant: canonical memories inside their spaces, OUT within
OUT_CAP, CNT, ERR, KIND and COST in range, ACC below 2^CNT, LO and HI reduced. -/
def Obligations.StepKeepsTheInvariant : Prop :=
  ∀ s t : State, s.Inv → step s = .next t → t.Inv

/-! ### Command faults (`60_exceptions.md`) -/

/-- R230, R42: a FAULTED block ignores every command: it changes nothing, not even ERR. -/
def Obligations.FaultedBlockIgnoresCommands : Prop :=
  ∀ s : State, s.err ≠ 0#4 →
    (∀ i, exec i s = .next s) ∧
    (∀ (w : CmdWord) (ops : List HostOp), s.hostOps = .cmd w :: ops →
      step s = .next { s with hostOps := ops, replies := .done :: s.replies })

/-- R42: ERR is written only by a command fault and only when it is 0; RESET alone clears it; STATUS[3:0] reads it. -/
def Obligations.ErrLatchesTheFirstFault : Prop :=
  (∀ s t : State, step s = .next t →
    (s.err ≠ 0#4 → t.err = s.err ∨ (t.err = 0#4 ∧ ∃ ops, s.hostOps = .reset :: ops)) ∧
    (s.err = 0#4 → t.err = 0#4 ∨ ∃ w ops f, s.hostOps = .cmd w :: ops ∧ t.err = faultCode f)) ∧
  (∀ s : State, ∃ v, readReg 0x10 s = some v ∧ v.setWidth 4 = s.err) ∧
  ∀ p, (State.init p).err = 0#4

/-- R222: an illegal word raises ILLEGAL_CMD; no state of the block other than ERR changes. -/
def Obligations.IllegalWordChangesOnlyErr : Prop :=
  ∀ (s : State) (w : CmdWord) (why : Illegal) (ops : List HostOp), s.err = 0#4 → s.hostOps = .cmd w :: ops →
    decode w = .illegal why → step s = .next { s with hostOps := ops, replies := .done :: s.replies, err := 1#4 }

/-- R223: BAD_COUNT, raised by WRBITS for a count of 33 to 63 and by nothing else; no state other than ERR changes. -/
def Obligations.BadCountChangesOnlyErr : Prop :=
  ∀ s : State, s.err = 0#4 →
    (∀ v count, 33 ≤ count → count ≤ 63 → exec (.wrbits v count) s = .next { s with err := 2#4 }) ∧
    (∀ i t, exec i s = .next t → t.err = 2#4 → ∃ v count, i = .wrbits v count ∧ 33 ≤ count)

/-- R224: NOT_ALIGNED, raised by WRBE32 and ZCOMP (whose LEN is legal, R228) when CNT is not 0, and by nothing else: FLUSH
never raises it; no state other than ERR changes. -/
def Obligations.NotAlignedChangesOnlyErr : Prop :=
  ∀ s : State, s.err = 0#4 →
    (∀ v, s.cnt ≠ 0 → exec (.wrbe32 v) s = .next { s with err := 3#4 }) ∧
    (s.cnt ≠ 0 → s.len.toNat < 2 ^ 31 → exec .zcomp s = .next { s with err := 3#4 }) ∧
    (∀ i t, exec i s = .next t → t.err = 3#4 → s.cnt ≠ 0 ∧ (i = .zcomp ∨ ∃ v, i = .wrbe32 v))

/-- R225: BAD_CFG, raised by exactly the configuration values R225 names, never because of QUALITY or FSEL; no state other
than ERR changes. -/
def Obligations.BadCfgChangesOnlyErr : Prop :=
  ∀ s : State, s.err = 0#4 →
    (∀ i ∈ filters,
      s.bpp.toNat < 1 ∨ 8 < s.bpp.toNat ∨ s.size.toNat < s.bpp.toNat ∨ 2 ^ 24 < s.size.toNat →
      exec i s = .next { s with err := 4#4 }) ∧
    (∀ i ∈ [Instr.zcomp, .adupd], 2 ^ 31 ≤ s.len.toNat → exec i s = .next { s with err := 4#4 }) ∧
    (∀ i t, exec i s = .next t → t.err = 4#4 →
      (i ∈ filters ∧ (s.bpp.toNat < 1 ∨ 8 < s.bpp.toNat ∨ s.size.toNat < s.bpp.toNat ∨ 2 ^ 24 < s.size.toNat)) ∨
      (i ∈ [Instr.zcomp, .adupd] ∧ 2 ^ 31 ≤ s.len.toNat))

/-- R226, R71: BAD_ADDR, raised (after the configuration and alignment checks, R228) by exactly the ranges of R71 that do
not fit; no state other than ERR changes. -/
def Obligations.BadAddrChangesOnlyErr : Prop :=
  ∀ s : State, s.err = 0#4 →
    (∀ i ∈ filters,
      1 ≤ s.bpp.toNat → s.bpp.toNat ≤ 8 → s.bpp.toNat ≤ s.size.toNat → s.size.toNat ≤ 2 ^ 24 →
      (s.params.pixSize < s.src.toNat + s.size.toNat ∨
       (s.row ≠ 0#32 ∧ (s.src.toNat < s.stride.toNat ∨
         (s.params.pixSize : Int) < (s.src.toNat : Int) - s.stride.toNat + s.size.toNat)) ∨
       s.params.fbSize < s.dst.toNat + s.size.toNat) →
      exec i s = .next { s with err := 5#4 }) ∧
    (s.len.toNat < 2 ^ 31 → s.params.fbSize < s.data.toNat + s.len.toNat →
      exec .adupd s = .next { s with err := 5#4 } ∧
      (s.cnt = 0 → exec .zcomp s = .next { s with err := 5#4 })) ∧
    (∀ i t, exec i s = .next t → t.err = 5#4 →
      (i ∈ filters ∧ ¬(s.rowInPix ∧ s.prevRowInPix ∧ s.rowInFb)) ∨
      (i ∈ [Instr.zcomp, .adupd] ∧ s.params.fbSize < s.data.toNat + s.len.toNat))

/-- R227: OUT_FULL. WRBITS, FLUSH and WRBE32 check first and change nothing but ERR; ZCOMP stops at the failing append and
OUT keeps what was appended; with OUT_CAP infinite it never occurs. -/
def Obligations.OutFullIsCheckedFirstExceptInZcomp : Prop :=
  ∀ s : State, s.err = 0#4 →
    (∀ cap, s.params.outCap = some cap →
      (∀ v count, count ≤ 32 → cap < s.out.length + (s.cnt + count) / 8 →
        exec (.wrbits v count) s = .next { s with err := 6#4 }) ∧
      (∀ f, 0 < s.cnt → s.out.length = cap → exec (.flush f) s = .next { s with err := 6#4 }) ∧
      (∀ v, s.cnt = 0 → cap < s.out.length + 4 → exec (.wrbe32 v) s = .next { s with err := 6#4 }) ∧
      (∀ t, exec .zcomp s = .next t → t.err = 6#4 → s.out <+: t.out ∧ t.out.length = cap)) ∧
    (s.params.outCap = none → ∀ i t, exec i s = .next t → t.err ≠ 6#4)

/-! ### Unit BS (`42_bitstream.md`) -/

/-- R182, R181, R180: WRBITS with a legal count and room appends the low `count` bits of its value, bit 0 first, to the bit
sequence of the stream; OUT grows by the whole bytes, CNT keeps the rest, and nothing else changes. -/
def Obligations.WrbitsAppendsTheLowBits : Prop :=
  ∀ (s : State) (v : Word) (count : Nat), s.Inv → s.Ready → count ≤ 32 → s.RoomFor ((s.cnt + count) / 8) →
    ∃ t, exec (.wrbits v count) s = .next t ∧
      t = { s with out := t.out, acc := t.acc, cnt := (s.cnt + count) % 8 } ∧
      s.out <+: t.out ∧ t.out.length = s.out.length + (s.cnt + count) / 8 ∧ t.acc.toNat < 2 ^ t.cnt ∧
      t.streamBits = s.streamBits ++ (List.range count).map v.getLsbD

/-- R183: (a) eight bits on a byte boundary append exactly that byte; (b) a WRBITS may be split anywhere; (c) the bit
sequence alone determines OUT, ACC and CNT. -/
def Obligations.WrbitsMayBeSplit : Prop :=
  (∀ (s : State) (v : Word), s.Inv → s.Ready → s.cnt = 0 → s.RoomFor 1 →
    exec (.wrbits v 8) s = .next { s with out := s.out ++ [v.setWidth 8] }) ∧
  (∀ (s : State) (v : Word) (c1 c : Nat), s.Inv → s.Ready → c1 ≤ c → c ≤ 32 → s.RoomFor ((s.cnt + c) / 8) →
    ∃ u t, exec (.wrbits v c1) s = .next u ∧ exec (.wrbits (v >>> c1) (c - c1)) u = .next t ∧
      exec (.wrbits v c) s = .next t) ∧
  (∀ s t : State, s.cnt ≤ 7 → t.cnt ≤ 7 → s.acc.toNat < 2 ^ s.cnt → t.acc.toNat < 2 ^ t.cnt →
    s.streamBits = t.streamBits → s.out = t.out ∧ s.acc = t.acc ∧ s.cnt = t.cnt)

/-- R184, R185: FLUSH with room pads the pending bits with zeros to one byte, appends nothing when there are none, and only
sets FIN, when `final` is 1. -/
def Obligations.FlushPadsToAByte : Prop :=
  ∀ (s : State) (f : Bool), s.Ready →
    (s.cnt = 0 → exec (.flush f) s = .next { s with fin := s.fin || f }) ∧
    (0 < s.cnt → s.params.outCap ≠ some s.out.length →
      exec (.flush f) s =
        .next { s with out := s.out ++ [s.acc.setWidth 8], acc := 0#39, cnt := 0, fin := s.fin || f }) ∧
    (∀ t, s.Inv → 0 < s.cnt → s.RoomFor 1 → exec (.flush f) s = .next t →
      t.streamBits = s.streamBits ++ List.replicate (8 - s.cnt) false)

/-- R186, R188, R67: WRBE32, aligned and with room, appends the four bytes of its value, most significant first, and
changes nothing else. -/
def Obligations.Wrbe32AppendsBigEndian : Prop :=
  ∀ (s : State) (v : Word), s.Ready → s.cnt = 0 → s.RoomFor 4 →
    exec (.wrbe32 v) s = .next { s with
      out := s.out ++ [BitVec.ofNat 8 (v.toNat / 2 ^ 24), BitVec.ofNat 8 (v.toNat / 2 ^ 16),
        BitVec.ofNat 8 (v.toNat / 2 ^ 8), BitVec.ofNat 8 v.toNat] }

/-- R187: BSCLR empties OUT and clears ACC, CNT and FIN, and nothing else. -/
def Obligations.BsclrClearsTheStreamOnly : Prop :=
  ∀ s : State, s.Ready → exec .bsclr s = .next { s with out := [], acc := 0#39, cnt := 0, fin := false }

/-! ### Unit AD (`43_adler32.md`) -/

/-- R191: ADINIT sets LO to 1 and HI to 0, and nothing else; ADLER then reads 1. -/
def Obligations.AdinitSeedsTheChecksum : Prop :=
  ∀ s : State, s.Ready → exec .adinit s = .next { s with lo := 1#16, hi := 0#16 } ∧
    readReg 0x13 { s with lo := 1#16, hi := 0#16 } = some 0x00000001#32

/-- R192, R190: ADUPD, block by block, computes the byte-by-byte reference over the buffer from whatever LO and HI hold,
and changes nothing else. -/
def Obligations.AdupdComputesTheReference : Prop :=
  ∀ s : State, s.Inv → s.Ready → s.len.toNat < LEN_LIMIT → s.bufInFb →
    exec .adupd s = .next { s with
      lo := BitVec.ofNat 16 (adlerRun (s.lo.toNat, s.hi.toNat) s.buffer).1,
      hi := BitVec.ofNat 16 (adlerRun (s.lo.toNat, s.hi.toNat) s.buffer).2 }

/-- R195: the block step gives exactly the reference; the reference composes over concatenation; two ADUPD over the two
pieces of a buffer leave what one ADUPD over the whole leaves. -/
def Obligations.ChecksumDoesNotDependOnTheCut : Prop :=
  (∀ (s : State) (blk : List Byte), s.lo.toNat < BASE → s.hi.toNat < BASE → 1 ≤ blk.length → blk.length ≤ NMAX →
    ((blockStep blk s).lo.toNat, (blockStep blk s).hi.toNat) = adlerRun (s.lo.toNat, s.hi.toNat) blk) ∧
  (∀ (p : Nat × Nat) (d1 d2 : List Byte), adlerRun (adlerRun p d1) d2 = adlerRun p (d1 ++ d2)) ∧
  (∀ (s : State) (n1 n2 : Nat), s.Inv → s.Ready → n1 + n2 < LEN_LIMIT → s.data.toNat + n1 < 2 ^ 32 →
    s.data.toNat + n1 + n2 ≤ s.params.fbSize →
    ∃ u v t, exec .adupd { s with len := BitVec.ofNat 32 n1 } = .next u ∧
      exec .adupd { u with data := BitVec.ofNat 32 (s.data.toNat + n1), len := BitVec.ofNat 32 n2 } = .next v ∧
      exec .adupd { s with len := BitVec.ofNat 32 (n1 + n2) } = .next t ∧ v.lo = t.lo ∧ v.hi = t.hi)

/-- R194: inside a block of at most 5552 bytes every intermediate fits unsigned 32 bits. -/
def Obligations.BlockSumsFit32Bits : Prop :=
  ∀ (blk : List Byte) (lo hi : Nat), blk.length ≤ NMAX → lo < BASE → hi < BASE →
    blockSum blk ≤ 1415760 ∧ blockWeighted blk ≤ 3930857640 ∧
    hi + blk.length * lo + blockWeighted blk < 2 ^ 32 ∧ lo + blockSum blk < 2 ^ 32

/-- R193, R89: ADINIT then ADUPD leave the Adler-32 of the buffer in ADLER. -/
def Obligations.AdinitAdupdGiveTheAdler32 : Prop :=
  ∀ s : State, s.Inv → s.Ready → s.len.toNat < LEN_LIMIT → s.bufInFb →
    ∃ u t, exec .adinit s = .next u ∧ exec .adupd u = .next t ∧ readReg 0x13 t = some (adler32 s.buffer)

/-! ### Unit RF (`40_row_filter.md`) -/

/-- R122, R71: the neighbour bytes of a column, addresses formed as unbounded integers. Where the previous row is read,
its range check (R71) has passed. -/
def Obligations.NeighbourBytesAreTheSpecs : Prop :=
  ∀ (s : State) (i : Nat),
    rowX s i = s.pixAt (s.src.toNat + i) ∧
    (s.bpp.toNat ≤ i → ∃ p : Nat, (p : Int) = s.src.toNat + i - s.bpp.toNat ∧ rowA s i = s.pixAt p) ∧
    (i < s.bpp.toNat → rowA s i = 0#8) ∧
    (s.row ≠ 0#32 → s.prevRowInPix → ∃ p : Nat, (p : Int) = s.src.toNat - s.stride.toNat + i ∧ rowB s i = s.pixAt p) ∧
    (s.row = 0#32 → rowB s i = 0#8) ∧
    (s.row ≠ 0#32 → s.prevRowInPix → s.bpp.toNat ≤ i → ∃ p : Nat,
      (p : Int) = s.src.toNat - s.stride.toNat + i - s.bpp.toNat ∧ rowC s i = s.pixAt p) ∧
    (s.row = 0#32 ∨ i < s.bpp.toNat → rowC s i = 0#8)

/-- R123: Paeth picks whichever of a, b, c is nearest to a + b - c, ties broken a, then b, then c. -/
def Obligations.PaethPicksTheNearest : Prop :=
  ∀ a b c : Byte,
    let dist := fun q : Byte => ((a.toNat : Int) + b.toNat - c.toNat - q.toNat).natAbs
    (paeth a b c = a ∨ paeth a b c = b ∨ paeth a b c = c) ∧
    (dist (paeth a b c) ≤ dist a ∧ dist (paeth a b c) ≤ dist b ∧ dist (paeth a b c) ≤ dist c) ∧
    (dist a = dist (paeth a b c) → paeth a b c = a) ∧
    (dist b = dist (paeth a b c) → dist a ≠ dist (paeth a b c) → paeth a b c = b)

/-- R127 to R130, R132, R133: with the checks passed, each fixed filter writes its formula's bytes to FB from DST on, their
cost to COST and its number to KIND, and changes nothing else. -/
def Obligations.FixedFiltersWriteTheirFormula : Prop :=
  ∀ s : State, s.Inv → s.Ready → s.RowOk →
    (∃ t, exec .fltNone s = .next t ∧ wroteRow s t .none fun i => rowX s i) ∧
    (∃ t, exec .fltSub s = .next t ∧ wroteRow s t .sub fun i => rowX s i - rowA s i) ∧
    (∃ t, exec .fltUp s = .next t ∧ wroteRow s t .up fun i => rowX s i - rowB s i) ∧
    (∃ t, exec .fltAvg s = .next t ∧ wroteRow s t .avg fun i =>
      rowX s i - BitVec.ofNat 8 (((rowA s i).toNat + (rowB s i).toNat) / 2)) ∧
    (∃ t, exec .fltPaeth s = .next t ∧ wroteRow s t .paeth fun i => rowX s i - paeth (rowA s i) (rowB s i) (rowC s i))

/-- R131: FLT.AUTO does what the fixed filter of one kind does: a candidate of FSEL[4:0] of least cost, the least number
among equals, or None when there is no candidate. A one-bit mask leaves no choice. -/
def Obligations.AutoAppliesTheCheapestCandidate : Prop :=
  ∀ s : State, s.Inv → s.Ready → s.RowOk →
    ∃ k t, exec .fltAuto s = .next t ∧ exec (fixedFilter k) s = .next t ∧ wroteRow s t k (filtered s k) ∧
      (s.fsel.extractLsb' 0 5 = 0#5 → k = .none) ∧
      (s.fsel.extractLsb' 0 5 ≠ 0#5 → s.fsel.getLsbD (kindNum k) = true) ∧
      ∀ j, s.fsel.getLsbD (kindNum j) = true →
        rowCost s k ≤ rowCost s j ∧ (rowCost s j = rowCost s k → kindNum k ≤ kindNum j)

/-- R129, R132: on row 0, FLT.UP writes the bytes and cost of FLT.NONE, and FLT.PAETH those of FLT.SUB. -/
def Obligations.RowZeroUpIsNoneAndPaethIsSub : Prop :=
  ∀ s : State, s.Ready → s.RowOk → s.row = 0#32 →
    (∃ t, exec .fltNone s = .next t ∧ exec .fltUp s = .next { t with kind := 2#3 }) ∧
    (∃ t, exec .fltSub s = .next t ∧ exec .fltPaeth s = .next { t with kind := 4#3 })

/-- R122, R71: on row 0 STRIDE is irrelevant to every command of unit RF, faults included. -/
def Obligations.StrideIsIrrelevantOnRowZero : Prop :=
  ∀ (s : State) (v : Word), s.row = 0#32 → ∀ i ∈ filters, ∃ t, exec i s = .next t ∧
    exec i { s with stride := v } = .next { t with stride := v }

/-- R134: the scanline is recovered from the FilteredBuffer and the previous row: each byte is the filtered byte plus the
predictor, and two rows with the same context and the same FilteredBuffer are the same row. -/
def Obligations.FilteringIsInvertible : Prop :=
  ∀ (k : FilterKind) (s t : State), s.Inv → s.Ready → s.RowOk → exec (fixedFilter k) s = .next t →
    (∀ i, i < s.size.toNat →
      rowX s i = t.fbAt (s.dst.toNat + i) + predict k (rowA s i) (rowB s i) (rowC s i)) ∧
    (∀ s' t' : State, s'.Inv → s'.Ready → s'.RowOk → exec (fixedFilter k) s' = .next t' →
      s'.bpp = s.bpp → s'.size = s.size →
      (∀ i, i < s.size.toNat → rowB s' i = rowB s i ∧ rowC s' i = rowC s i) →
      (∀ i, i < s.size.toNat → t'.fbAt (s'.dst.toNat + i) = t.fbAt (s.dst.toNat + i)) →
      ∀ i, i < s.size.toNat → rowX s' i = rowX s i)

/-! ### Frames: what a command leaves unchanged -/

/-- R120, R133, R221: an FLT command changes FB in `DST .. DST+SIZE-1`, COST, KIND and ERR at most; every other register,
flag, special register and byte is as before. -/
def Obligations.FilterCommandsFrame : Prop :=
  ∀ (i : Instr) (s t : State), i ∈ filters → exec i s = .next t →
    t = { s with fb := t.fb, cost := t.cost, kind := t.kind, err := t.err } ∧
    (∀ a, t.pixAt a = s.pixAt a) ∧
    (∀ a, a < s.dst.toNat ∨ s.dst.toNat + s.size.toNat ≤ a → t.fbAt a = s.fbAt a)

/-- R182, R184, R186, R187, R191, R192, R140: the commands that store to no memory: those of unit BS change OUT, ACC, CNT,
FIN and ERR at most; those of unit AD LO, HI and ERR; ZCOMP the state of units BS, AD and LZ (and the model's counter of
free values) and ERR. Every byte of PIX and FB is as before. -/
def Obligations.StreamAndChecksumCommandsFrame : Prop :=
  ∀ (i : Instr) (s t : State), exec i s = .next t →
    ((∃ v c, i = .wrbits v c) ∨ (∃ f, i = .flush f) ∨ (∃ v, i = .wrbe32 v) ∨ i = .bsclr →
      t = { s with out := t.out, acc := t.acc, cnt := t.cnt, fin := t.fin, err := t.err }) ∧
    (i = .adinit ∨ i = .adupd → t = { s with lo := t.lo, hi := t.hi, err := t.err }) ∧
    (i = .zcomp → t = { s with
      out := t.out, acc := t.acc, cnt := t.cnt, fin := t.fin, lo := t.lo, hi := t.hi, ht := t.ht, lzI := t.lzI,
      lzQ := t.lzQ, lzBest := t.lzBest, lzBestLoc := t.lzBestLoc, freeCtr := t.freeCtr, err := t.err }) ∧
    (i ∉ filters → ∀ a, t.pixAt a = s.pixAt a ∧ t.fbAt a = s.fbAt a)

/-- R23, R52, R61: no command writes a configuration register, a parameter, PIX, or the host's side. -/
def Obligations.CommandsNeverWriteConfigurationOrPix : Prop :=
  ∀ (i : Instr) (s t : State), exec i s = .next t →
    t.src = s.src ∧ t.stride = s.stride ∧ t.bpp = s.bpp ∧ t.size = s.size ∧ t.row = s.row ∧ t.dst = s.dst ∧
    t.fsel = s.fsel ∧ t.data = s.data ∧ t.len = s.len ∧ t.quality = s.quality ∧
    t.params = s.params ∧ t.pix = s.pix ∧ t.hostOps = s.hostOps ∧ t.replies = s.replies

/-- R44, R63: OUT only grows by appending; only BSCLR and RESET empty it. -/
def Obligations.OutOnlyGrows : Prop :=
  ∀ s t : State, step s = .next t →
    s.out <+: t.out ∨
    (t.out = [] ∧ ∃ ops, s.hostOps = .reset :: ops ∨ ∃ w, s.hostOps = .cmd w :: ops ∧ decode w = .instr .bsclr)

/-- R48, R61, R62, R78: a byte of PIX changes only by PIXWR at its address, a byte of FB only by FBWR at its address or by
an FLT command whose range `DST .. DST+SIZE-1` holds it; until then it reads what it read before, written or not. -/
def Obligations.BytesChangeOnlyWhenWritten : Prop :=
  ∀ s t : State, s.Inv → step s = .next t → ∀ a,
    (t.pixAt a ≠ s.pixAt a → ∃ b ops, s.hostOps = .pixwr a b :: ops ∧ a < s.params.pixSize ∧ t.pixAt a = b) ∧
    (t.fbAt a ≠ s.fbAt a →
      (∃ b ops, s.hostOps = .fbwr a b :: ops ∧ a < s.params.fbSize ∧ t.fbAt a = b) ∨
      (∃ w ops i, s.hostOps = .cmd w :: ops ∧ decode w = .instr i ∧ i ∈ filters ∧
        s.dst.toNat ≤ a ∧ a < s.dst.toNat + s.size.toNat))

/-! ### Output codes (`30_encoding.md`, Part B) -/

/-- R104: BitRev reverses the bits of an n-bit number and is its own inverse. -/
def Obligations.BitRevReversesTheBits : Prop :=
  (∀ v n : Nat, v < 2 ^ n →
    bitRev v n < 2 ^ n ∧ (∀ k, k < n → (bitRev v n).testBit k = v.testBit (n - 1 - k)) ∧
    bitRev (bitRev v n) n = v) ∧ bitRev 0b00110 5 = 0b01100

/-- R95, R93: what PutSym hands to WriteBits enters the stream most significant bit of the code first. -/
def Obligations.PutSymWritesTheCodeMsbFirst : Prop :=
  ∀ (s : State) (sym : Nat), sym ≤ 285 → s.Inv → s.Ready → s.RoomFor ((s.cnt + symLen sym) / 8) →
    ∃ t, putSym sym s = .ok t ∧ t = { s with out := t.out, acc := t.acc, cnt := (s.cnt + symLen sym) % 8 } ∧
      t.streamBits = s.streamBits ++ codeBits (symCode sym) (symLen sym)

/-- R94, R105: the four rows of the literal/length code, and no code is the beginning of another: a decoder can tell
them apart. -/
def Obligations.FixedCodeIsPrefixFree : Prop :=
  (∀ s : Nat,
    (s ≤ 143 → symLen s = 8 ∧ symCode s = 0x30 + s) ∧
    (144 ≤ s ∧ s ≤ 255 → symLen s = 9 ∧ symCode s = 0x190 + (s - 144)) ∧
    (256 ≤ s ∧ s ≤ 279 → symLen s = 7 ∧ symCode s = s - 256) ∧
    (280 ≤ s ∧ s ≤ 287 → symLen s = 8 ∧ symCode s = 0xC0 + (s - 280))) ∧
  ∀ a b : Nat, a ≤ 287 → b ≤ 287 → codeBits (symCode a) (symLen a) <+: codeBits (symCode b) (symLen b) → a = b

/-- R96 to R99: the lists of bases and extra bits; the bin of a length or a distance is the one whose range holds it, and
the offset in it fits the bin's extra bits; length 258 has bin 28. -/
def Obligations.BinsCoverLengthsAndDistances : Prop :=
  lenBase = [3, 4, 5, 6, 7, 8, 9, 10, 11, 13, 15, 17, 19, 23, 27, 31, 35, 43, 51, 59, 67, 83, 99, 115, 131, 163, 195, 227,
    258, 259] ∧
  lenExtra = [0, 0, 0, 0, 0, 0, 0, 0, 1, 1, 1, 1, 2, 2, 2, 2, 3, 3, 3, 3, 4, 4, 4, 4, 5, 5, 5, 5, 0] ∧
  distBase = [1, 2, 3, 4, 5, 7, 9, 13, 17, 25, 33, 49, 65, 97, 129, 193, 257, 385, 513, 769, 1025, 1537, 2049, 3073, 4097,
    6145, 8193, 12289, 16385, 24577, 32769] ∧
  distExtra = [0, 0, 0, 0, 1, 1, 2, 2, 3, 3, 4, 4, 5, 5, 6, 6, 7, 7, 8, 8, 9, 9, 10, 10, 11, 11, 12, 12, 13, 13] ∧
  (∀ L, 3 ≤ L → L ≤ 258 →
    lenBin L ≤ 28 ∧ lenBase.getD (lenBin L) 0 ≤ L ∧ L < lenBase.getD (lenBin L + 1) 0 ∧
    L - lenBase.getD (lenBin L) 0 < 2 ^ lenExtra.getD (lenBin L) 0) ∧
  (∀ D, 1 ≤ D → D ≤ 32768 →
    distBin D ≤ 29 ∧ distBase.getD (distBin D) 0 ≤ D ∧ D < distBase.getD (distBin D + 1) 0 ∧
    D - distBase.getD (distBin D) 0 < 2 ^ distExtra.getD (distBin D) 0) ∧
  lenBin 258 = 28

/-! ### Unit LZ (`41_lz77_huffman.md`) -/

/-- R142, R228: ZCOMP's checks, in their order; a failing one changes nothing but ERR. -/
def Obligations.ZcompChecksInOrder : Prop :=
  ∀ s : State, s.Ready →
    (2 ^ 31 ≤ s.len.toNat → exec .zcomp s = .next { s with err := 4#4 }) ∧
    (s.len.toNat < 2 ^ 31 → s.cnt ≠ 0 → exec .zcomp s = .next { s with err := 3#4 }) ∧
    (s.len.toNat < 2 ^ 31 → s.cnt = 0 → s.params.fbSize < s.data.toNat + s.len.toNat →
      exec .zcomp s = .next { s with err := 5#4 })

/-- R140 (its example), R90: the empty buffer. -/
def Obligations.ZcompOfTheEmptyBuffer : Prop :=
  ∀ s : State, s.Inv → s.Ready → s.cnt = 0 → s.len = 0#32 → s.data.toNat ≤ s.params.fbSize → s.RoomFor 8 →
    ∃ t, exec .zcomp s = .next t ∧
      t.out = s.out ++ [0x78#8, 0x5E#8, 0x03#8, 0x00#8, 0x00#8, 0x00#8, 0x00#8, 0x01#8] ∧
      t.err = 0#4 ∧ t.fin = true ∧ t.acc = 0#39 ∧ t.cnt = 0 ∧ t.lo = 1#16 ∧ t.hi = 0#16

/-- R147: MatchLen is the largest length within the buffer and 258 over which the bytes agree. -/
def Obligations.MatchLenIsTheLongestAgreement : Prop :=
  ∀ (s : State) (p j : Nat), p < j → j ≤ s.len.toNat →
    candLen s p j ≤ min (s.len.toNat - j) 258 ∧
    (∀ t, t < candLen s p j → s.bufAt (p + t) = s.bufAt (j + t)) ∧
    (∀ L, L ≤ min (s.len.toNat - j) 258 → (∀ t, t < L → s.bufAt (p + t) = s.bufAt (j + t)) → L ≤ candLen s p j)

/-- R148, R159: after the probe, either no candidate in the window matches three bytes, or BESTLOC is the most recent of the
candidates in the window of greatest length, BEST that length. The candidates are the slots before the first -1, in
increasing order, all earlier than I (R45). R149, R150: then I is inserted into its bucket, and the lazy check discards the
match exactly when some candidate of the bucket of the bytes at I + 1, read after the insertion and in the window of I + 1,
matches more than BEST bytes there; it changes nothing but BESTLOC. -/
def Obligations.ProbeFindsTheLongestMostRecent : Prop :=
  (∀ (s : State) (h : Nat),
    let cands := (bucketOf s.lzQ s.ht h).takeWhile (· ≠ -1)
    cands.Pairwise (· < ·) → (∀ p ∈ cands, 0 ≤ p ∧ p < (s.lzI : Int)) →
    let t := probe h s
    t = { s with lzBest := t.lzBest, lzBestLoc := t.lzBestLoc } ∧
    ((t.lzBestLoc = none ∧ ∀ q ∈ cands, (s.lzI : Int) - 32768 < q → candLen s q s.lzI < 3) ∨
     (∃ p : Nat, t.lzBestLoc = some p ∧ (p : Int) ∈ cands ∧ t.lzBest = candLen s p s.lzI ∧
       3 ≤ t.lzBest ∧ t.lzBest ≤ 258 ∧ 1 ≤ s.lzI - p ∧ s.lzI - p ≤ 32767 ∧
       ∀ q ∈ cands, (s.lzI : Int) - 32768 < q →
         candLen s q s.lzI ≤ t.lzBest ∧ (candLen s q s.lzI = t.lzBest → q ≤ p)))) ∧
  (∀ s : State,
    let h := hashAt s s.lzI
    let v := probe h s
    let u := findMatch s
    u = { v with ht := u.ht, lzBestLoc := u.lzBestLoc } ∧
    (∀ k, bucketOf s.lzQ u.ht k =
      if k = h then insertSlot s.lzQ (bucketOf s.lzQ s.ht h) s.lzI else bucketOf s.lzQ s.ht k) ∧
    (u.lzBestLoc = none ∨ u.lzBestLoc = v.lzBestLoc) ∧
    (u.lzBestLoc = none ↔ v.lzBestLoc = none ∨
      ∃ q ∈ (bucketOf s.lzQ u.ht (hashAt s (s.lzI + 1))).takeWhile (· ≠ -1),
        (s.lzI : Int) + 1 - 32768 < q ∧ v.lzBest < candLen s q (s.lzI + 1)))

/-- R149, R45: insertion into a bucket whose live offsets occupy its first slots: the offset goes after them; a full
bucket first drops its oldest Q, so it then holds Q + 1; there are always 2 * Q slots. -/
def Obligations.InsertionKeepsTheBucketPacked : Prop :=
  ∀ (q : Nat) (live : List Int) (i : Int), 1 ≤ q → live.length ≤ 2 * q → (∀ p ∈ live, 0 ≤ p) → 0 ≤ i →
    let kept := (if live.length = 2 * q then live.drop q else live) ++ [i]
    insertSlot q (live ++ List.replicate (2 * q - live.length) (-1)) i =
      kept ++ List.replicate (2 * q - kept.length) (-1) ∧
    kept.length ≤ 2 * q ∧ (live.length = 2 * q → kept.length = q + 1)

/-- R90 to R103, R140, R141, R143, R146, R153, R154, R158, R159: ZCOMP appends one zlib stream: the header, a block, end-of-block,
padding and the checksum, which LO and HI then hold. The block's items are those that the match finder decides, position
by position from 0, with an empty hash table and the clamped quality; they expand to the buffer, every match legal. ACC
and CNT are 0, FIN is set, and nothing outside units BS, AD and LZ changes. (HT is a free value afterwards, log entry 7; that
Q keeps its value is the model's choice, log entry 8.) -/
def Obligations.ZcompWritesOneZlibStream : Prop :=
  ∀ s : State, s.Inv → s.Ready → s.len.toNat < LEN_LIMIT → s.cnt = 0 → s.bufInFb → s.params.outCap = none →
    ∃ (t : State) (items : List Item) (body : List Byte) (pad : Nat), exec .zcomp s = .next t ∧
      t = { s with
        out := t.out, acc := 0#39, cnt := 0, fin := true, lo := t.lo, hi := t.hi, ht := t.ht, lzI := t.lzI,
        lzQ := t.lzQ, lzBest := t.lzBest, lzBestLoc := t.lzBestLoc, freeCtr := t.freeCtr } ∧
      (t.lzQ : Int) = min (max s.quality.toInt 5) s.params.qmax ∧
      items = decidedItems s.len.toNat { s with lzQ := t.lzQ, ht := [], lzI := 0 } ∧
      expandItems [] items = s.buffer ∧ itemsLegal 0 items ∧
      t.out = s.out ++ [0x78#8, 0x5E#8] ++ body ++ bigEndian (adler32 s.buffer) ∧
      body.flatMap byteBits =
        [true, true, false] ++ items.flatMap itemBits ++ List.replicate 7 false ++ List.replicate pad false ∧
      pad < 8 ∧ readReg 0x13 t = some (adler32 s.buffer)

/-- R163: a decoder of the format yields exactly the buffer from what ZCOMP appends, for every buffer, hash function and
quality. (`zlibDecode` is this model's own reading of R90 to R103 backwards.) -/
def Obligations.ZcompRoundTrip : Prop :=
  ∀ s : State, s.Inv → s.Ready → s.len.toNat < LEN_LIMIT → s.cnt = 0 → s.bufInFb → s.params.outCap = none →
    ∃ t, exec .zcomp s = .next t ∧ zlibDecode (t.out.drop s.out.length) = some s.buffer

/-- R160: one ZCOMP appends at most `6 + ceil((10 + 9 * LEN) / 8)` bytes, whether it completes or gets OUT_FULL, and with
that much room it cannot get OUT_FULL. -/
def Obligations.ZcompSizeBound : Prop :=
  ∀ s : State, s.Inv → s.Ready → s.len.toNat < LEN_LIMIT → s.cnt = 0 → s.bufInFb →
    ∃ t, exec .zcomp s = .next t ∧ s.out <+: t.out ∧
      t.out.length ≤ s.out.length + (6 + (10 + 9 * s.len.toNat + 7) / 8) ∧
      (s.RoomFor (6 + (10 + 9 * s.len.toNat + 7) / 8) → t.err = 0#4)

/-- R162: for fixed HASH3 and QMAX the bytes a ZCOMP that ends without a fault appends are a function of the buffer and
QUALITY alone. -/
def Obligations.ZcompOutputDependsOnBufferAndQualityOnly : Prop :=
  ∀ s s' t t' : State, s.Inv → s'.Inv → s.Ready → s'.Ready →
    s'.params.hash = s.params.hash → s'.params.qmax = s.params.qmax →
    s'.buffer = s.buffer → s'.quality = s.quality →
    exec .zcomp s = .next t → exec .zcomp s' = .next t' → t.err = 0#4 → t'.err = 0#4 →
    ∃ bytes, t.out = s.out ++ bytes ∧ t'.out = s'.out ++ bytes

/-- R161, R63, R140: with a finite OUT_CAP, ZCOMP either fits, and then does all it does with OUT_CAP infinite, or stops at
the failing append and raises OUT_FULL with OUT filled to OUT_CAP by the first bytes of the stream it would have written.
(That the run that fits also leaves the same HT, the same I, Q, BEST and BESTLOC and the same counter of free values as the
run with OUT_CAP infinite is the model's choice, log entries 7, 8 and 15: R45 and R46 leave HT and the four unspecified
after ZCOMP. After OUT_FULL, ACC, CNT, FIN, LO, HI and HT are free values, log entry 6: nothing is said of them.) -/
def Obligations.ZcompOutFullKeepsWhatFits : Prop :=
  ∀ (s : State) (cap : Nat), s.Inv → s.Ready → s.len.toNat < LEN_LIMIT → s.cnt = 0 → s.bufInFb →
    s.params.outCap = some cap →
    ∃ t u, exec .zcomp s = .next t ∧ exec .zcomp { s with params := { s.params with outCap := none } } = .next u ∧
      t.out = u.out.take cap ∧
      (u.out.length ≤ cap → t = { u with params := s.params } ∧ t.err = 0#4) ∧
      (cap < u.out.length → t.err = 6#4 ∧ t.out.length = cap)
end

