-- ==== Sys2Proof/Laws/Memory.lean ====
section
/-! SUPPORT. The byte memories: a read after a write, the canonical form, and consecutive writes. -/

namespace Sys2Proof.Machine

variable {bg : Nat → Byte} {m : Memory} {a a' n : Nat} {b : Byte}

/-- A write leaves every other address alone, whatever the form of the memory. -/
theorem Memory.read_write_other (h : a' ≠ a) : Memory.read bg (Memory.write bg m a b) a' = Memory.read bg m a' := by
  induction m with
  | nil =>
    simp only [Memory.write]
    split <;> simp [Memory.read, Ne.symm h]
  | cons c m ih =>
    obtain ⟨k, c⟩ := c
    simp only [Memory.write]
    split
    · split
      · rfl
      · simp [Memory.read, Ne.symm h]
    · split
      · next hk =>
        subst hk
        split <;> simp [Memory.read, Ne.symm h]
      · simp only [Memory.read, ih]

/-- An address below every listed one is not listed. -/
theorem Memory.read_below (h : ∀ c ∈ m, a < c.1) : Memory.read bg m a = bg a := by
  induction m with
  | nil => rfl
  | cons c m ih =>
    obtain ⟨k, c⟩ := c
    have hk : a < k := h (k, c) (by simp)
    simp [Memory.read, Nat.ne_of_gt hk, ih fun d hd => h d (by simp [hd])]

/-- A read after a write to the same address gives the byte written. -/
theorem Memory.read_write_same (hm : Memory.wf bg m) : Memory.read bg (Memory.write bg m a b) a = b := by
  induction m with
  | nil =>
    simp only [Memory.write]
    split <;> simp_all [Memory.read]
  | cons c m ih =>
    obtain ⟨k, c⟩ := c
    have hp := List.pairwise_cons.1 hm.1
    have hm' : Memory.wf bg m := ⟨hp.2, fun d hd => hm.2 d (by simp [hd])⟩
    simp only [Memory.write]
    split
    · next hlt =>
      split
      · next hb =>
        rw [hb]
        exact Memory.read_below fun d hd => by
          rcases List.mem_cons.1 hd with rfl | hd
          · exact hlt
          · exact Nat.lt_trans hlt (hp.1 d hd)
      · simp [Memory.read]
    · split
      · next hk =>
        subst hk
        split
        · next hb => rw [hb]; exact Memory.read_below hp.1
        · simp [Memory.read]
      · next hk => simp only [Memory.read, Ne.symm hk, if_false]; exact ih hm'

/-- Every pair listed after a write was listed before, or is the pair written. -/
theorem Memory.mem_write {c : Host.Cell} (h : c ∈ Memory.write bg m a b) : c ∈ m ∨ (c = (a, b) ∧ b ≠ bg a) := by
  induction m with
  | nil =>
    simp only [Memory.write] at h
    split at h <;> simp_all
  | cons d m ih =>
    obtain ⟨k, d⟩ := d
    simp only [Memory.write] at h
    split at h
    · split at h
      · exact .inl h
      · rcases List.mem_cons.1 h with rfl | h
        · exact .inr ⟨rfl, ‹_›⟩
        · exact .inl h
    · split at h
      · split at h
        · exact .inl (by simp [h])
        · rcases List.mem_cons.1 h with rfl | h
          · exact .inr ⟨rfl, ‹_›⟩
          · exact .inl (by simp [h])
      · rcases List.mem_cons.1 h with rfl | h
        · exact .inl (by simp)
        · rcases ih h with h | h
          · exact .inl (by simp [h])
          · exact .inr h

/-- A write keeps the canonical form. -/
theorem Memory.write_wf (hm : Memory.wf bg m) : Memory.wf bg (Memory.write bg m a b) := by
  refine ⟨?_, fun c hc => ?_⟩
  · obtain ⟨hp, -⟩ := hm
    induction m with
    | nil =>
      simp only [Memory.write]
      split <;> simp
    | cons c m ih =>
      obtain ⟨k, c⟩ := c
      have hp' := List.pairwise_cons.1 hp
      simp only [Memory.write]
      split
      · next hlt =>
        split
        · exact hp
        · exact List.pairwise_cons.2 ⟨fun d hd => by
            rcases List.mem_cons.1 hd with rfl | hd
            · exact hlt
            · exact Nat.lt_trans hlt (hp'.1 d hd), hp⟩
      · split
        · next hk =>
          subst hk
          split
          · exact hp'.2
          · exact List.pairwise_cons.2 ⟨hp'.1, hp'.2⟩
        · next hlt hk =>
          refine List.pairwise_cons.2 ⟨fun d hd => ?_, ih hp'.2⟩
          rcases Memory.mem_write hd with hd | ⟨rfl, -⟩
          · exact hp'.1 d hd
          · show k < a
            omega
  · rcases Memory.mem_write hc with hc | ⟨rfl, hb⟩
    · exact hm.2 c hc
    · exact hb

/-- A write below `n` keeps every listed address below `n`. -/
theorem Memory.write_within (hm : Memory.within n m) (ha : a < n) : Memory.within n (Memory.write bg m a b) := by
  intro c hc
  rcases Memory.mem_write hc with hc | ⟨rfl, -⟩
  · exact hm c hc
  · exact ha

/-- The empty memory is in canonical form. -/
theorem Memory.wf_nil : Memory.wf bg [] := ⟨List.Pairwise.nil, by simp⟩

variable {bs : List Byte}

/-- Consecutive writes keep the canonical form. -/
theorem Memory.writeList_wf (hm : Memory.wf bg m) : Memory.wf bg (Memory.writeList bg m a bs) := by
  induction bs generalizing m a with
  | nil => exact hm
  | cons b bs ih => exact ih (Memory.write_wf hm)

/-- Consecutive writes below `n` keep every listed address below `n`. -/
theorem Memory.writeList_within (hm : Memory.within n m) (ha : a + bs.length ≤ n) :
    Memory.within n (Memory.writeList bg m a bs) := by
  induction bs generalizing m a with
  | nil => exact hm
  | cons b bs ih =>
    simp only [List.length_cons] at ha
    exact ih (Memory.write_within hm (by omega)) (by omega)

/-- Consecutive writes leave every address outside them alone. -/
theorem Memory.read_writeList_outside (h : a' < a ∨ a + bs.length ≤ a') :
    Memory.read bg (Memory.writeList bg m a bs) a' = Memory.read bg m a' := by
  induction bs generalizing m a with
  | nil => rfl
  | cons b bs ih =>
    simp only [List.length_cons] at h
    rw [Memory.writeList, ih (by omega), Memory.read_write_other (by omega)]

/-- Consecutive writes put byte `i` at address `a + i`. -/
theorem Memory.read_writeList_inside (hm : Memory.wf bg m) {i : Nat} (hi : i < bs.length) :
    Memory.read bg (Memory.writeList bg m a bs) (a + i) = bs[i] := by
  induction bs generalizing m a i with
  | nil => simp at hi
  | cons b bs ih =>
    cases i with
    | zero =>
      have h := Memory.read_writeList_outside (bg := bg) (m := Memory.write bg m a b) (a := a + 1) (a' := a) (bs := bs)
        (.inl (by omega))
      simpa [Memory.writeList] using h.trans (Memory.read_write_same hm)
    | succ i =>
      have h := ih (m := Memory.write bg m a b) (a := a + 1) (i := i) (Memory.write_wf hm)
        (by simpa using hi)
      rw [Memory.writeList, show a + (i + 1) = a + 1 + i by omega, h]
      rfl

end Sys2Proof.Machine
end

