-- ==== Sys2Proof/Laws/State.lean ====
section
/-! SUPPORT. What each named update of `State` leaves in each field, by `rfl`: no later proof unfolds an update. -/

namespace Sys2Proof.Machine

variable (s : State)

/-! `setErr` -/
@[simp] theorem State.setErr_params (e : BitVec 4) : (s.setErr e).params = s.params := rfl
@[simp] theorem State.setErr_src (e : BitVec 4) : (s.setErr e).src = s.src := rfl
@[simp] theorem State.setErr_stride (e : BitVec 4) : (s.setErr e).stride = s.stride := rfl
@[simp] theorem State.setErr_bpp (e : BitVec 4) : (s.setErr e).bpp = s.bpp := rfl
@[simp] theorem State.setErr_size (e : BitVec 4) : (s.setErr e).size = s.size := rfl
@[simp] theorem State.setErr_row (e : BitVec 4) : (s.setErr e).row = s.row := rfl
@[simp] theorem State.setErr_dst (e : BitVec 4) : (s.setErr e).dst = s.dst := rfl
@[simp] theorem State.setErr_fsel (e : BitVec 4) : (s.setErr e).fsel = s.fsel := rfl
@[simp] theorem State.setErr_data (e : BitVec 4) : (s.setErr e).data = s.data := rfl
@[simp] theorem State.setErr_len (e : BitVec 4) : (s.setErr e).len = s.len := rfl
@[simp] theorem State.setErr_quality (e : BitVec 4) : (s.setErr e).quality = s.quality := rfl
@[simp] theorem State.setErr_err (e : BitVec 4) : (s.setErr e).err = e := rfl
@[simp] theorem State.setErr_cost (e : BitVec 4) : (s.setErr e).cost = s.cost := rfl
@[simp] theorem State.setErr_kind (e : BitVec 4) : (s.setErr e).kind = s.kind := rfl
@[simp] theorem State.setErr_out (e : BitVec 4) : (s.setErr e).out = s.out := rfl
@[simp] theorem State.setErr_acc (e : BitVec 4) : (s.setErr e).acc = s.acc := rfl
@[simp] theorem State.setErr_cnt (e : BitVec 4) : (s.setErr e).cnt = s.cnt := rfl
@[simp] theorem State.setErr_fin (e : BitVec 4) : (s.setErr e).fin = s.fin := rfl
@[simp] theorem State.setErr_lo (e : BitVec 4) : (s.setErr e).lo = s.lo := rfl
@[simp] theorem State.setErr_hi (e : BitVec 4) : (s.setErr e).hi = s.hi := rfl
@[simp] theorem State.setErr_ht (e : BitVec 4) : (s.setErr e).ht = s.ht := rfl
@[simp] theorem State.setErr_lzI (e : BitVec 4) : (s.setErr e).lzI = s.lzI := rfl
@[simp] theorem State.setErr_lzQ (e : BitVec 4) : (s.setErr e).lzQ = s.lzQ := rfl
@[simp] theorem State.setErr_lzBest (e : BitVec 4) : (s.setErr e).lzBest = s.lzBest := rfl
@[simp] theorem State.setErr_lzBestLoc (e : BitVec 4) : (s.setErr e).lzBestLoc = s.lzBestLoc := rfl
@[simp] theorem State.setErr_pix (e : BitVec 4) : (s.setErr e).pix = s.pix := rfl
@[simp] theorem State.setErr_fb (e : BitVec 4) : (s.setErr e).fb = s.fb := rfl
@[simp] theorem State.setErr_hostOps (e : BitVec 4) : (s.setErr e).hostOps = s.hostOps := rfl
@[simp] theorem State.setErr_replies (e : BitVec 4) : (s.setErr e).replies = s.replies := rfl
@[simp] theorem State.setErr_freeCtr (e : BitVec 4) : (s.setErr e).freeCtr = s.freeCtr := rfl

/-! `setRow` -/
@[simp] theorem State.setRow_params (m : Memory) (c : Word) (k : BitVec 3) : (s.setRow m c k).params = s.params := rfl
@[simp] theorem State.setRow_src (m : Memory) (c : Word) (k : BitVec 3) : (s.setRow m c k).src = s.src := rfl
@[simp] theorem State.setRow_stride (m : Memory) (c : Word) (k : BitVec 3) : (s.setRow m c k).stride = s.stride := rfl
@[simp] theorem State.setRow_bpp (m : Memory) (c : Word) (k : BitVec 3) : (s.setRow m c k).bpp = s.bpp := rfl
@[simp] theorem State.setRow_size (m : Memory) (c : Word) (k : BitVec 3) : (s.setRow m c k).size = s.size := rfl
@[simp] theorem State.setRow_row (m : Memory) (c : Word) (k : BitVec 3) : (s.setRow m c k).row = s.row := rfl
@[simp] theorem State.setRow_dst (m : Memory) (c : Word) (k : BitVec 3) : (s.setRow m c k).dst = s.dst := rfl
@[simp] theorem State.setRow_fsel (m : Memory) (c : Word) (k : BitVec 3) : (s.setRow m c k).fsel = s.fsel := rfl
@[simp] theorem State.setRow_data (m : Memory) (c : Word) (k : BitVec 3) : (s.setRow m c k).data = s.data := rfl
@[simp] theorem State.setRow_len (m : Memory) (c : Word) (k : BitVec 3) : (s.setRow m c k).len = s.len := rfl
@[simp] theorem State.setRow_quality (m : Memory) (c : Word) (k : BitVec 3) : (s.setRow m c k).quality = s.quality := rfl
@[simp] theorem State.setRow_err (m : Memory) (c : Word) (k : BitVec 3) : (s.setRow m c k).err = s.err := rfl
@[simp] theorem State.setRow_cost (m : Memory) (c : Word) (k : BitVec 3) : (s.setRow m c k).cost = c := rfl
@[simp] theorem State.setRow_kind (m : Memory) (c : Word) (k : BitVec 3) : (s.setRow m c k).kind = k := rfl
@[simp] theorem State.setRow_out (m : Memory) (c : Word) (k : BitVec 3) : (s.setRow m c k).out = s.out := rfl
@[simp] theorem State.setRow_acc (m : Memory) (c : Word) (k : BitVec 3) : (s.setRow m c k).acc = s.acc := rfl
@[simp] theorem State.setRow_cnt (m : Memory) (c : Word) (k : BitVec 3) : (s.setRow m c k).cnt = s.cnt := rfl
@[simp] theorem State.setRow_fin (m : Memory) (c : Word) (k : BitVec 3) : (s.setRow m c k).fin = s.fin := rfl
@[simp] theorem State.setRow_lo (m : Memory) (c : Word) (k : BitVec 3) : (s.setRow m c k).lo = s.lo := rfl
@[simp] theorem State.setRow_hi (m : Memory) (c : Word) (k : BitVec 3) : (s.setRow m c k).hi = s.hi := rfl
@[simp] theorem State.setRow_ht (m : Memory) (c : Word) (k : BitVec 3) : (s.setRow m c k).ht = s.ht := rfl
@[simp] theorem State.setRow_lzI (m : Memory) (c : Word) (k : BitVec 3) : (s.setRow m c k).lzI = s.lzI := rfl
@[simp] theorem State.setRow_lzQ (m : Memory) (c : Word) (k : BitVec 3) : (s.setRow m c k).lzQ = s.lzQ := rfl
@[simp] theorem State.setRow_lzBest (m : Memory) (c : Word) (k : BitVec 3) : (s.setRow m c k).lzBest = s.lzBest := rfl
@[simp] theorem State.setRow_lzBestLoc (m : Memory) (c : Word) (k : BitVec 3) : (s.setRow m c k).lzBestLoc = s.lzBestLoc := rfl
@[simp] theorem State.setRow_pix (m : Memory) (c : Word) (k : BitVec 3) : (s.setRow m c k).pix = s.pix := rfl
@[simp] theorem State.setRow_fb (m : Memory) (c : Word) (k : BitVec 3) : (s.setRow m c k).fb = m := rfl
@[simp] theorem State.setRow_hostOps (m : Memory) (c : Word) (k : BitVec 3) : (s.setRow m c k).hostOps = s.hostOps := rfl
@[simp] theorem State.setRow_replies (m : Memory) (c : Word) (k : BitVec 3) : (s.setRow m c k).replies = s.replies := rfl
@[simp] theorem State.setRow_freeCtr (m : Memory) (c : Word) (k : BitVec 3) : (s.setRow m c k).freeCtr = s.freeCtr := rfl

/-! `setOut` -/
@[simp] theorem State.setOut_params (o : List Byte) : (s.setOut o).params = s.params := rfl
@[simp] theorem State.setOut_src (o : List Byte) : (s.setOut o).src = s.src := rfl
@[simp] theorem State.setOut_stride (o : List Byte) : (s.setOut o).stride = s.stride := rfl
@[simp] theorem State.setOut_bpp (o : List Byte) : (s.setOut o).bpp = s.bpp := rfl
@[simp] theorem State.setOut_size (o : List Byte) : (s.setOut o).size = s.size := rfl
@[simp] theorem State.setOut_row (o : List Byte) : (s.setOut o).row = s.row := rfl
@[simp] theorem State.setOut_dst (o : List Byte) : (s.setOut o).dst = s.dst := rfl
@[simp] theorem State.setOut_fsel (o : List Byte) : (s.setOut o).fsel = s.fsel := rfl
@[simp] theorem State.setOut_data (o : List Byte) : (s.setOut o).data = s.data := rfl
@[simp] theorem State.setOut_len (o : List Byte) : (s.setOut o).len = s.len := rfl
@[simp] theorem State.setOut_quality (o : List Byte) : (s.setOut o).quality = s.quality := rfl
@[simp] theorem State.setOut_err (o : List Byte) : (s.setOut o).err = s.err := rfl
@[simp] theorem State.setOut_cost (o : List Byte) : (s.setOut o).cost = s.cost := rfl
@[simp] theorem State.setOut_kind (o : List Byte) : (s.setOut o).kind = s.kind := rfl
@[simp] theorem State.setOut_out (o : List Byte) : (s.setOut o).out = o := rfl
@[simp] theorem State.setOut_acc (o : List Byte) : (s.setOut o).acc = s.acc := rfl
@[simp] theorem State.setOut_cnt (o : List Byte) : (s.setOut o).cnt = s.cnt := rfl
@[simp] theorem State.setOut_fin (o : List Byte) : (s.setOut o).fin = s.fin := rfl
@[simp] theorem State.setOut_lo (o : List Byte) : (s.setOut o).lo = s.lo := rfl
@[simp] theorem State.setOut_hi (o : List Byte) : (s.setOut o).hi = s.hi := rfl
@[simp] theorem State.setOut_ht (o : List Byte) : (s.setOut o).ht = s.ht := rfl
@[simp] theorem State.setOut_lzI (o : List Byte) : (s.setOut o).lzI = s.lzI := rfl
@[simp] theorem State.setOut_lzQ (o : List Byte) : (s.setOut o).lzQ = s.lzQ := rfl
@[simp] theorem State.setOut_lzBest (o : List Byte) : (s.setOut o).lzBest = s.lzBest := rfl
@[simp] theorem State.setOut_lzBestLoc (o : List Byte) : (s.setOut o).lzBestLoc = s.lzBestLoc := rfl
@[simp] theorem State.setOut_pix (o : List Byte) : (s.setOut o).pix = s.pix := rfl
@[simp] theorem State.setOut_fb (o : List Byte) : (s.setOut o).fb = s.fb := rfl
@[simp] theorem State.setOut_hostOps (o : List Byte) : (s.setOut o).hostOps = s.hostOps := rfl
@[simp] theorem State.setOut_replies (o : List Byte) : (s.setOut o).replies = s.replies := rfl
@[simp] theorem State.setOut_freeCtr (o : List Byte) : (s.setOut o).freeCtr = s.freeCtr := rfl

/-! `setBits` -/
@[simp] theorem State.setBits_params (a : BitVec 39) (c : Nat) : (s.setBits a c).params = s.params := rfl
@[simp] theorem State.setBits_src (a : BitVec 39) (c : Nat) : (s.setBits a c).src = s.src := rfl
@[simp] theorem State.setBits_stride (a : BitVec 39) (c : Nat) : (s.setBits a c).stride = s.stride := rfl
@[simp] theorem State.setBits_bpp (a : BitVec 39) (c : Nat) : (s.setBits a c).bpp = s.bpp := rfl
@[simp] theorem State.setBits_size (a : BitVec 39) (c : Nat) : (s.setBits a c).size = s.size := rfl
@[simp] theorem State.setBits_row (a : BitVec 39) (c : Nat) : (s.setBits a c).row = s.row := rfl
@[simp] theorem State.setBits_dst (a : BitVec 39) (c : Nat) : (s.setBits a c).dst = s.dst := rfl
@[simp] theorem State.setBits_fsel (a : BitVec 39) (c : Nat) : (s.setBits a c).fsel = s.fsel := rfl
@[simp] theorem State.setBits_data (a : BitVec 39) (c : Nat) : (s.setBits a c).data = s.data := rfl
@[simp] theorem State.setBits_len (a : BitVec 39) (c : Nat) : (s.setBits a c).len = s.len := rfl
@[simp] theorem State.setBits_quality (a : BitVec 39) (c : Nat) : (s.setBits a c).quality = s.quality := rfl
@[simp] theorem State.setBits_err (a : BitVec 39) (c : Nat) : (s.setBits a c).err = s.err := rfl
@[simp] theorem State.setBits_cost (a : BitVec 39) (c : Nat) : (s.setBits a c).cost = s.cost := rfl
@[simp] theorem State.setBits_kind (a : BitVec 39) (c : Nat) : (s.setBits a c).kind = s.kind := rfl
@[simp] theorem State.setBits_out (a : BitVec 39) (c : Nat) : (s.setBits a c).out = s.out := rfl
@[simp] theorem State.setBits_acc (a : BitVec 39) (c : Nat) : (s.setBits a c).acc = a := rfl
@[simp] theorem State.setBits_cnt (a : BitVec 39) (c : Nat) : (s.setBits a c).cnt = c := rfl
@[simp] theorem State.setBits_fin (a : BitVec 39) (c : Nat) : (s.setBits a c).fin = s.fin := rfl
@[simp] theorem State.setBits_lo (a : BitVec 39) (c : Nat) : (s.setBits a c).lo = s.lo := rfl
@[simp] theorem State.setBits_hi (a : BitVec 39) (c : Nat) : (s.setBits a c).hi = s.hi := rfl
@[simp] theorem State.setBits_ht (a : BitVec 39) (c : Nat) : (s.setBits a c).ht = s.ht := rfl
@[simp] theorem State.setBits_lzI (a : BitVec 39) (c : Nat) : (s.setBits a c).lzI = s.lzI := rfl
@[simp] theorem State.setBits_lzQ (a : BitVec 39) (c : Nat) : (s.setBits a c).lzQ = s.lzQ := rfl
@[simp] theorem State.setBits_lzBest (a : BitVec 39) (c : Nat) : (s.setBits a c).lzBest = s.lzBest := rfl
@[simp] theorem State.setBits_lzBestLoc (a : BitVec 39) (c : Nat) : (s.setBits a c).lzBestLoc = s.lzBestLoc := rfl
@[simp] theorem State.setBits_pix (a : BitVec 39) (c : Nat) : (s.setBits a c).pix = s.pix := rfl
@[simp] theorem State.setBits_fb (a : BitVec 39) (c : Nat) : (s.setBits a c).fb = s.fb := rfl
@[simp] theorem State.setBits_hostOps (a : BitVec 39) (c : Nat) : (s.setBits a c).hostOps = s.hostOps := rfl
@[simp] theorem State.setBits_replies (a : BitVec 39) (c : Nat) : (s.setBits a c).replies = s.replies := rfl
@[simp] theorem State.setBits_freeCtr (a : BitVec 39) (c : Nat) : (s.setBits a c).freeCtr = s.freeCtr := rfl

/-! `setFin` -/
@[simp] theorem State.setFin_params (f : Bool) : (s.setFin f).params = s.params := rfl
@[simp] theorem State.setFin_src (f : Bool) : (s.setFin f).src = s.src := rfl
@[simp] theorem State.setFin_stride (f : Bool) : (s.setFin f).stride = s.stride := rfl
@[simp] theorem State.setFin_bpp (f : Bool) : (s.setFin f).bpp = s.bpp := rfl
@[simp] theorem State.setFin_size (f : Bool) : (s.setFin f).size = s.size := rfl
@[simp] theorem State.setFin_row (f : Bool) : (s.setFin f).row = s.row := rfl
@[simp] theorem State.setFin_dst (f : Bool) : (s.setFin f).dst = s.dst := rfl
@[simp] theorem State.setFin_fsel (f : Bool) : (s.setFin f).fsel = s.fsel := rfl
@[simp] theorem State.setFin_data (f : Bool) : (s.setFin f).data = s.data := rfl
@[simp] theorem State.setFin_len (f : Bool) : (s.setFin f).len = s.len := rfl
@[simp] theorem State.setFin_quality (f : Bool) : (s.setFin f).quality = s.quality := rfl
@[simp] theorem State.setFin_err (f : Bool) : (s.setFin f).err = s.err := rfl
@[simp] theorem State.setFin_cost (f : Bool) : (s.setFin f).cost = s.cost := rfl
@[simp] theorem State.setFin_kind (f : Bool) : (s.setFin f).kind = s.kind := rfl
@[simp] theorem State.setFin_out (f : Bool) : (s.setFin f).out = s.out := rfl
@[simp] theorem State.setFin_acc (f : Bool) : (s.setFin f).acc = s.acc := rfl
@[simp] theorem State.setFin_cnt (f : Bool) : (s.setFin f).cnt = s.cnt := rfl
@[simp] theorem State.setFin_fin (f : Bool) : (s.setFin f).fin = f := rfl
@[simp] theorem State.setFin_lo (f : Bool) : (s.setFin f).lo = s.lo := rfl
@[simp] theorem State.setFin_hi (f : Bool) : (s.setFin f).hi = s.hi := rfl
@[simp] theorem State.setFin_ht (f : Bool) : (s.setFin f).ht = s.ht := rfl
@[simp] theorem State.setFin_lzI (f : Bool) : (s.setFin f).lzI = s.lzI := rfl
@[simp] theorem State.setFin_lzQ (f : Bool) : (s.setFin f).lzQ = s.lzQ := rfl
@[simp] theorem State.setFin_lzBest (f : Bool) : (s.setFin f).lzBest = s.lzBest := rfl
@[simp] theorem State.setFin_lzBestLoc (f : Bool) : (s.setFin f).lzBestLoc = s.lzBestLoc := rfl
@[simp] theorem State.setFin_pix (f : Bool) : (s.setFin f).pix = s.pix := rfl
@[simp] theorem State.setFin_fb (f : Bool) : (s.setFin f).fb = s.fb := rfl
@[simp] theorem State.setFin_hostOps (f : Bool) : (s.setFin f).hostOps = s.hostOps := rfl
@[simp] theorem State.setFin_replies (f : Bool) : (s.setFin f).replies = s.replies := rfl
@[simp] theorem State.setFin_freeCtr (f : Bool) : (s.setFin f).freeCtr = s.freeCtr := rfl

/-! `setSums` -/
@[simp] theorem State.setSums_params (l : BitVec 16) (h : BitVec 16) : (s.setSums l h).params = s.params := rfl
@[simp] theorem State.setSums_src (l : BitVec 16) (h : BitVec 16) : (s.setSums l h).src = s.src := rfl
@[simp] theorem State.setSums_stride (l : BitVec 16) (h : BitVec 16) : (s.setSums l h).stride = s.stride := rfl
@[simp] theorem State.setSums_bpp (l : BitVec 16) (h : BitVec 16) : (s.setSums l h).bpp = s.bpp := rfl
@[simp] theorem State.setSums_size (l : BitVec 16) (h : BitVec 16) : (s.setSums l h).size = s.size := rfl
@[simp] theorem State.setSums_row (l : BitVec 16) (h : BitVec 16) : (s.setSums l h).row = s.row := rfl
@[simp] theorem State.setSums_dst (l : BitVec 16) (h : BitVec 16) : (s.setSums l h).dst = s.dst := rfl
@[simp] theorem State.setSums_fsel (l : BitVec 16) (h : BitVec 16) : (s.setSums l h).fsel = s.fsel := rfl
@[simp] theorem State.setSums_data (l : BitVec 16) (h : BitVec 16) : (s.setSums l h).data = s.data := rfl
@[simp] theorem State.setSums_len (l : BitVec 16) (h : BitVec 16) : (s.setSums l h).len = s.len := rfl
@[simp] theorem State.setSums_quality (l : BitVec 16) (h : BitVec 16) : (s.setSums l h).quality = s.quality := rfl
@[simp] theorem State.setSums_err (l : BitVec 16) (h : BitVec 16) : (s.setSums l h).err = s.err := rfl
@[simp] theorem State.setSums_cost (l : BitVec 16) (h : BitVec 16) : (s.setSums l h).cost = s.cost := rfl
@[simp] theorem State.setSums_kind (l : BitVec 16) (h : BitVec 16) : (s.setSums l h).kind = s.kind := rfl
@[simp] theorem State.setSums_out (l : BitVec 16) (h : BitVec 16) : (s.setSums l h).out = s.out := rfl
@[simp] theorem State.setSums_acc (l : BitVec 16) (h : BitVec 16) : (s.setSums l h).acc = s.acc := rfl
@[simp] theorem State.setSums_cnt (l : BitVec 16) (h : BitVec 16) : (s.setSums l h).cnt = s.cnt := rfl
@[simp] theorem State.setSums_fin (l : BitVec 16) (h : BitVec 16) : (s.setSums l h).fin = s.fin := rfl
@[simp] theorem State.setSums_lo (l : BitVec 16) (h : BitVec 16) : (s.setSums l h).lo = l := rfl
@[simp] theorem State.setSums_hi (l : BitVec 16) (h : BitVec 16) : (s.setSums l h).hi = h := rfl
@[simp] theorem State.setSums_ht (l : BitVec 16) (h : BitVec 16) : (s.setSums l h).ht = s.ht := rfl
@[simp] theorem State.setSums_lzI (l : BitVec 16) (h : BitVec 16) : (s.setSums l h).lzI = s.lzI := rfl
@[simp] theorem State.setSums_lzQ (l : BitVec 16) (h : BitVec 16) : (s.setSums l h).lzQ = s.lzQ := rfl
@[simp] theorem State.setSums_lzBest (l : BitVec 16) (h : BitVec 16) : (s.setSums l h).lzBest = s.lzBest := rfl
@[simp] theorem State.setSums_lzBestLoc (l : BitVec 16) (h : BitVec 16) : (s.setSums l h).lzBestLoc = s.lzBestLoc := rfl
@[simp] theorem State.setSums_pix (l : BitVec 16) (h : BitVec 16) : (s.setSums l h).pix = s.pix := rfl
@[simp] theorem State.setSums_fb (l : BitVec 16) (h : BitVec 16) : (s.setSums l h).fb = s.fb := rfl
@[simp] theorem State.setSums_hostOps (l : BitVec 16) (h : BitVec 16) : (s.setSums l h).hostOps = s.hostOps := rfl
@[simp] theorem State.setSums_replies (l : BitVec 16) (h : BitVec 16) : (s.setSums l h).replies = s.replies := rfl
@[simp] theorem State.setSums_freeCtr (l : BitVec 16) (h : BitVec 16) : (s.setSums l h).freeCtr = s.freeCtr := rfl

/-! `setHt` -/
@[simp] theorem State.setHt_params (t : HashTable) : (s.setHt t).params = s.params := rfl
@[simp] theorem State.setHt_src (t : HashTable) : (s.setHt t).src = s.src := rfl
@[simp] theorem State.setHt_stride (t : HashTable) : (s.setHt t).stride = s.stride := rfl
@[simp] theorem State.setHt_bpp (t : HashTable) : (s.setHt t).bpp = s.bpp := rfl
@[simp] theorem State.setHt_size (t : HashTable) : (s.setHt t).size = s.size := rfl
@[simp] theorem State.setHt_row (t : HashTable) : (s.setHt t).row = s.row := rfl
@[simp] theorem State.setHt_dst (t : HashTable) : (s.setHt t).dst = s.dst := rfl
@[simp] theorem State.setHt_fsel (t : HashTable) : (s.setHt t).fsel = s.fsel := rfl
@[simp] theorem State.setHt_data (t : HashTable) : (s.setHt t).data = s.data := rfl
@[simp] theorem State.setHt_len (t : HashTable) : (s.setHt t).len = s.len := rfl
@[simp] theorem State.setHt_quality (t : HashTable) : (s.setHt t).quality = s.quality := rfl
@[simp] theorem State.setHt_err (t : HashTable) : (s.setHt t).err = s.err := rfl
@[simp] theorem State.setHt_cost (t : HashTable) : (s.setHt t).cost = s.cost := rfl
@[simp] theorem State.setHt_kind (t : HashTable) : (s.setHt t).kind = s.kind := rfl
@[simp] theorem State.setHt_out (t : HashTable) : (s.setHt t).out = s.out := rfl
@[simp] theorem State.setHt_acc (t : HashTable) : (s.setHt t).acc = s.acc := rfl
@[simp] theorem State.setHt_cnt (t : HashTable) : (s.setHt t).cnt = s.cnt := rfl
@[simp] theorem State.setHt_fin (t : HashTable) : (s.setHt t).fin = s.fin := rfl
@[simp] theorem State.setHt_lo (t : HashTable) : (s.setHt t).lo = s.lo := rfl
@[simp] theorem State.setHt_hi (t : HashTable) : (s.setHt t).hi = s.hi := rfl
@[simp] theorem State.setHt_ht (t : HashTable) : (s.setHt t).ht = t := rfl
@[simp] theorem State.setHt_lzI (t : HashTable) : (s.setHt t).lzI = s.lzI := rfl
@[simp] theorem State.setHt_lzQ (t : HashTable) : (s.setHt t).lzQ = s.lzQ := rfl
@[simp] theorem State.setHt_lzBest (t : HashTable) : (s.setHt t).lzBest = s.lzBest := rfl
@[simp] theorem State.setHt_lzBestLoc (t : HashTable) : (s.setHt t).lzBestLoc = s.lzBestLoc := rfl
@[simp] theorem State.setHt_pix (t : HashTable) : (s.setHt t).pix = s.pix := rfl
@[simp] theorem State.setHt_fb (t : HashTable) : (s.setHt t).fb = s.fb := rfl
@[simp] theorem State.setHt_hostOps (t : HashTable) : (s.setHt t).hostOps = s.hostOps := rfl
@[simp] theorem State.setHt_replies (t : HashTable) : (s.setHt t).replies = s.replies := rfl
@[simp] theorem State.setHt_freeCtr (t : HashTable) : (s.setHt t).freeCtr = s.freeCtr := rfl

/-! `setPos` -/
@[simp] theorem State.setPos_params (i : Nat) : (s.setPos i).params = s.params := rfl
@[simp] theorem State.setPos_src (i : Nat) : (s.setPos i).src = s.src := rfl
@[simp] theorem State.setPos_stride (i : Nat) : (s.setPos i).stride = s.stride := rfl
@[simp] theorem State.setPos_bpp (i : Nat) : (s.setPos i).bpp = s.bpp := rfl
@[simp] theorem State.setPos_size (i : Nat) : (s.setPos i).size = s.size := rfl
@[simp] theorem State.setPos_row (i : Nat) : (s.setPos i).row = s.row := rfl
@[simp] theorem State.setPos_dst (i : Nat) : (s.setPos i).dst = s.dst := rfl
@[simp] theorem State.setPos_fsel (i : Nat) : (s.setPos i).fsel = s.fsel := rfl
@[simp] theorem State.setPos_data (i : Nat) : (s.setPos i).data = s.data := rfl
@[simp] theorem State.setPos_len (i : Nat) : (s.setPos i).len = s.len := rfl
@[simp] theorem State.setPos_quality (i : Nat) : (s.setPos i).quality = s.quality := rfl
@[simp] theorem State.setPos_err (i : Nat) : (s.setPos i).err = s.err := rfl
@[simp] theorem State.setPos_cost (i : Nat) : (s.setPos i).cost = s.cost := rfl
@[simp] theorem State.setPos_kind (i : Nat) : (s.setPos i).kind = s.kind := rfl
@[simp] theorem State.setPos_out (i : Nat) : (s.setPos i).out = s.out := rfl
@[simp] theorem State.setPos_acc (i : Nat) : (s.setPos i).acc = s.acc := rfl
@[simp] theorem State.setPos_cnt (i : Nat) : (s.setPos i).cnt = s.cnt := rfl
@[simp] theorem State.setPos_fin (i : Nat) : (s.setPos i).fin = s.fin := rfl
@[simp] theorem State.setPos_lo (i : Nat) : (s.setPos i).lo = s.lo := rfl
@[simp] theorem State.setPos_hi (i : Nat) : (s.setPos i).hi = s.hi := rfl
@[simp] theorem State.setPos_ht (i : Nat) : (s.setPos i).ht = s.ht := rfl
@[simp] theorem State.setPos_lzI (i : Nat) : (s.setPos i).lzI = i := rfl
@[simp] theorem State.setPos_lzQ (i : Nat) : (s.setPos i).lzQ = s.lzQ := rfl
@[simp] theorem State.setPos_lzBest (i : Nat) : (s.setPos i).lzBest = s.lzBest := rfl
@[simp] theorem State.setPos_lzBestLoc (i : Nat) : (s.setPos i).lzBestLoc = s.lzBestLoc := rfl
@[simp] theorem State.setPos_pix (i : Nat) : (s.setPos i).pix = s.pix := rfl
@[simp] theorem State.setPos_fb (i : Nat) : (s.setPos i).fb = s.fb := rfl
@[simp] theorem State.setPos_hostOps (i : Nat) : (s.setPos i).hostOps = s.hostOps := rfl
@[simp] theorem State.setPos_replies (i : Nat) : (s.setPos i).replies = s.replies := rfl
@[simp] theorem State.setPos_freeCtr (i : Nat) : (s.setPos i).freeCtr = s.freeCtr := rfl

/-! `setQ` -/
@[simp] theorem State.setQ_params (q : Nat) : (s.setQ q).params = s.params := rfl
@[simp] theorem State.setQ_src (q : Nat) : (s.setQ q).src = s.src := rfl
@[simp] theorem State.setQ_stride (q : Nat) : (s.setQ q).stride = s.stride := rfl
@[simp] theorem State.setQ_bpp (q : Nat) : (s.setQ q).bpp = s.bpp := rfl
@[simp] theorem State.setQ_size (q : Nat) : (s.setQ q).size = s.size := rfl
@[simp] theorem State.setQ_row (q : Nat) : (s.setQ q).row = s.row := rfl
@[simp] theorem State.setQ_dst (q : Nat) : (s.setQ q).dst = s.dst := rfl
@[simp] theorem State.setQ_fsel (q : Nat) : (s.setQ q).fsel = s.fsel := rfl
@[simp] theorem State.setQ_data (q : Nat) : (s.setQ q).data = s.data := rfl
@[simp] theorem State.setQ_len (q : Nat) : (s.setQ q).len = s.len := rfl
@[simp] theorem State.setQ_quality (q : Nat) : (s.setQ q).quality = s.quality := rfl
@[simp] theorem State.setQ_err (q : Nat) : (s.setQ q).err = s.err := rfl
@[simp] theorem State.setQ_cost (q : Nat) : (s.setQ q).cost = s.cost := rfl
@[simp] theorem State.setQ_kind (q : Nat) : (s.setQ q).kind = s.kind := rfl
@[simp] theorem State.setQ_out (q : Nat) : (s.setQ q).out = s.out := rfl
@[simp] theorem State.setQ_acc (q : Nat) : (s.setQ q).acc = s.acc := rfl
@[simp] theorem State.setQ_cnt (q : Nat) : (s.setQ q).cnt = s.cnt := rfl
@[simp] theorem State.setQ_fin (q : Nat) : (s.setQ q).fin = s.fin := rfl
@[simp] theorem State.setQ_lo (q : Nat) : (s.setQ q).lo = s.lo := rfl
@[simp] theorem State.setQ_hi (q : Nat) : (s.setQ q).hi = s.hi := rfl
@[simp] theorem State.setQ_ht (q : Nat) : (s.setQ q).ht = s.ht := rfl
@[simp] theorem State.setQ_lzI (q : Nat) : (s.setQ q).lzI = s.lzI := rfl
@[simp] theorem State.setQ_lzQ (q : Nat) : (s.setQ q).lzQ = q := rfl
@[simp] theorem State.setQ_lzBest (q : Nat) : (s.setQ q).lzBest = s.lzBest := rfl
@[simp] theorem State.setQ_lzBestLoc (q : Nat) : (s.setQ q).lzBestLoc = s.lzBestLoc := rfl
@[simp] theorem State.setQ_pix (q : Nat) : (s.setQ q).pix = s.pix := rfl
@[simp] theorem State.setQ_fb (q : Nat) : (s.setQ q).fb = s.fb := rfl
@[simp] theorem State.setQ_hostOps (q : Nat) : (s.setQ q).hostOps = s.hostOps := rfl
@[simp] theorem State.setQ_replies (q : Nat) : (s.setQ q).replies = s.replies := rfl
@[simp] theorem State.setQ_freeCtr (q : Nat) : (s.setQ q).freeCtr = s.freeCtr := rfl

/-! `setBest` -/
@[simp] theorem State.setBest_params (b : Nat) (l : Option Nat) : (s.setBest b l).params = s.params := rfl
@[simp] theorem State.setBest_src (b : Nat) (l : Option Nat) : (s.setBest b l).src = s.src := rfl
@[simp] theorem State.setBest_stride (b : Nat) (l : Option Nat) : (s.setBest b l).stride = s.stride := rfl
@[simp] theorem State.setBest_bpp (b : Nat) (l : Option Nat) : (s.setBest b l).bpp = s.bpp := rfl
@[simp] theorem State.setBest_size (b : Nat) (l : Option Nat) : (s.setBest b l).size = s.size := rfl
@[simp] theorem State.setBest_row (b : Nat) (l : Option Nat) : (s.setBest b l).row = s.row := rfl
@[simp] theorem State.setBest_dst (b : Nat) (l : Option Nat) : (s.setBest b l).dst = s.dst := rfl
@[simp] theorem State.setBest_fsel (b : Nat) (l : Option Nat) : (s.setBest b l).fsel = s.fsel := rfl
@[simp] theorem State.setBest_data (b : Nat) (l : Option Nat) : (s.setBest b l).data = s.data := rfl
@[simp] theorem State.setBest_len (b : Nat) (l : Option Nat) : (s.setBest b l).len = s.len := rfl
@[simp] theorem State.setBest_quality (b : Nat) (l : Option Nat) : (s.setBest b l).quality = s.quality := rfl
@[simp] theorem State.setBest_err (b : Nat) (l : Option Nat) : (s.setBest b l).err = s.err := rfl
@[simp] theorem State.setBest_cost (b : Nat) (l : Option Nat) : (s.setBest b l).cost = s.cost := rfl
@[simp] theorem State.setBest_kind (b : Nat) (l : Option Nat) : (s.setBest b l).kind = s.kind := rfl
@[simp] theorem State.setBest_out (b : Nat) (l : Option Nat) : (s.setBest b l).out = s.out := rfl
@[simp] theorem State.setBest_acc (b : Nat) (l : Option Nat) : (s.setBest b l).acc = s.acc := rfl
@[simp] theorem State.setBest_cnt (b : Nat) (l : Option Nat) : (s.setBest b l).cnt = s.cnt := rfl
@[simp] theorem State.setBest_fin (b : Nat) (l : Option Nat) : (s.setBest b l).fin = s.fin := rfl
@[simp] theorem State.setBest_lo (b : Nat) (l : Option Nat) : (s.setBest b l).lo = s.lo := rfl
@[simp] theorem State.setBest_hi (b : Nat) (l : Option Nat) : (s.setBest b l).hi = s.hi := rfl
@[simp] theorem State.setBest_ht (b : Nat) (l : Option Nat) : (s.setBest b l).ht = s.ht := rfl
@[simp] theorem State.setBest_lzI (b : Nat) (l : Option Nat) : (s.setBest b l).lzI = s.lzI := rfl
@[simp] theorem State.setBest_lzQ (b : Nat) (l : Option Nat) : (s.setBest b l).lzQ = s.lzQ := rfl
@[simp] theorem State.setBest_lzBest (b : Nat) (l : Option Nat) : (s.setBest b l).lzBest = b := rfl
@[simp] theorem State.setBest_lzBestLoc (b : Nat) (l : Option Nat) : (s.setBest b l).lzBestLoc = l := rfl
@[simp] theorem State.setBest_pix (b : Nat) (l : Option Nat) : (s.setBest b l).pix = s.pix := rfl
@[simp] theorem State.setBest_fb (b : Nat) (l : Option Nat) : (s.setBest b l).fb = s.fb := rfl
@[simp] theorem State.setBest_hostOps (b : Nat) (l : Option Nat) : (s.setBest b l).hostOps = s.hostOps := rfl
@[simp] theorem State.setBest_replies (b : Nat) (l : Option Nat) : (s.setBest b l).replies = s.replies := rfl
@[simp] theorem State.setBest_freeCtr (b : Nat) (l : Option Nat) : (s.setBest b l).freeCtr = s.freeCtr := rfl

/-! `setPix` -/
@[simp] theorem State.setPix_params (m : Memory) : (s.setPix m).params = s.params := rfl
@[simp] theorem State.setPix_src (m : Memory) : (s.setPix m).src = s.src := rfl
@[simp] theorem State.setPix_stride (m : Memory) : (s.setPix m).stride = s.stride := rfl
@[simp] theorem State.setPix_bpp (m : Memory) : (s.setPix m).bpp = s.bpp := rfl
@[simp] theorem State.setPix_size (m : Memory) : (s.setPix m).size = s.size := rfl
@[simp] theorem State.setPix_row (m : Memory) : (s.setPix m).row = s.row := rfl
@[simp] theorem State.setPix_dst (m : Memory) : (s.setPix m).dst = s.dst := rfl
@[simp] theorem State.setPix_fsel (m : Memory) : (s.setPix m).fsel = s.fsel := rfl
@[simp] theorem State.setPix_data (m : Memory) : (s.setPix m).data = s.data := rfl
@[simp] theorem State.setPix_len (m : Memory) : (s.setPix m).len = s.len := rfl
@[simp] theorem State.setPix_quality (m : Memory) : (s.setPix m).quality = s.quality := rfl
@[simp] theorem State.setPix_err (m : Memory) : (s.setPix m).err = s.err := rfl
@[simp] theorem State.setPix_cost (m : Memory) : (s.setPix m).cost = s.cost := rfl
@[simp] theorem State.setPix_kind (m : Memory) : (s.setPix m).kind = s.kind := rfl
@[simp] theorem State.setPix_out (m : Memory) : (s.setPix m).out = s.out := rfl
@[simp] theorem State.setPix_acc (m : Memory) : (s.setPix m).acc = s.acc := rfl
@[simp] theorem State.setPix_cnt (m : Memory) : (s.setPix m).cnt = s.cnt := rfl
@[simp] theorem State.setPix_fin (m : Memory) : (s.setPix m).fin = s.fin := rfl
@[simp] theorem State.setPix_lo (m : Memory) : (s.setPix m).lo = s.lo := rfl
@[simp] theorem State.setPix_hi (m : Memory) : (s.setPix m).hi = s.hi := rfl
@[simp] theorem State.setPix_ht (m : Memory) : (s.setPix m).ht = s.ht := rfl
@[simp] theorem State.setPix_lzI (m : Memory) : (s.setPix m).lzI = s.lzI := rfl
@[simp] theorem State.setPix_lzQ (m : Memory) : (s.setPix m).lzQ = s.lzQ := rfl
@[simp] theorem State.setPix_lzBest (m : Memory) : (s.setPix m).lzBest = s.lzBest := rfl
@[simp] theorem State.setPix_lzBestLoc (m : Memory) : (s.setPix m).lzBestLoc = s.lzBestLoc := rfl
@[simp] theorem State.setPix_pix (m : Memory) : (s.setPix m).pix = m := rfl
@[simp] theorem State.setPix_fb (m : Memory) : (s.setPix m).fb = s.fb := rfl
@[simp] theorem State.setPix_hostOps (m : Memory) : (s.setPix m).hostOps = s.hostOps := rfl
@[simp] theorem State.setPix_replies (m : Memory) : (s.setPix m).replies = s.replies := rfl
@[simp] theorem State.setPix_freeCtr (m : Memory) : (s.setPix m).freeCtr = s.freeCtr := rfl

/-! `setFb` -/
@[simp] theorem State.setFb_params (m : Memory) : (s.setFb m).params = s.params := rfl
@[simp] theorem State.setFb_src (m : Memory) : (s.setFb m).src = s.src := rfl
@[simp] theorem State.setFb_stride (m : Memory) : (s.setFb m).stride = s.stride := rfl
@[simp] theorem State.setFb_bpp (m : Memory) : (s.setFb m).bpp = s.bpp := rfl
@[simp] theorem State.setFb_size (m : Memory) : (s.setFb m).size = s.size := rfl
@[simp] theorem State.setFb_row (m : Memory) : (s.setFb m).row = s.row := rfl
@[simp] theorem State.setFb_dst (m : Memory) : (s.setFb m).dst = s.dst := rfl
@[simp] theorem State.setFb_fsel (m : Memory) : (s.setFb m).fsel = s.fsel := rfl
@[simp] theorem State.setFb_data (m : Memory) : (s.setFb m).data = s.data := rfl
@[simp] theorem State.setFb_len (m : Memory) : (s.setFb m).len = s.len := rfl
@[simp] theorem State.setFb_quality (m : Memory) : (s.setFb m).quality = s.quality := rfl
@[simp] theorem State.setFb_err (m : Memory) : (s.setFb m).err = s.err := rfl
@[simp] theorem State.setFb_cost (m : Memory) : (s.setFb m).cost = s.cost := rfl
@[simp] theorem State.setFb_kind (m : Memory) : (s.setFb m).kind = s.kind := rfl
@[simp] theorem State.setFb_out (m : Memory) : (s.setFb m).out = s.out := rfl
@[simp] theorem State.setFb_acc (m : Memory) : (s.setFb m).acc = s.acc := rfl
@[simp] theorem State.setFb_cnt (m : Memory) : (s.setFb m).cnt = s.cnt := rfl
@[simp] theorem State.setFb_fin (m : Memory) : (s.setFb m).fin = s.fin := rfl
@[simp] theorem State.setFb_lo (m : Memory) : (s.setFb m).lo = s.lo := rfl
@[simp] theorem State.setFb_hi (m : Memory) : (s.setFb m).hi = s.hi := rfl
@[simp] theorem State.setFb_ht (m : Memory) : (s.setFb m).ht = s.ht := rfl
@[simp] theorem State.setFb_lzI (m : Memory) : (s.setFb m).lzI = s.lzI := rfl
@[simp] theorem State.setFb_lzQ (m : Memory) : (s.setFb m).lzQ = s.lzQ := rfl
@[simp] theorem State.setFb_lzBest (m : Memory) : (s.setFb m).lzBest = s.lzBest := rfl
@[simp] theorem State.setFb_lzBestLoc (m : Memory) : (s.setFb m).lzBestLoc = s.lzBestLoc := rfl
@[simp] theorem State.setFb_pix (m : Memory) : (s.setFb m).pix = s.pix := rfl
@[simp] theorem State.setFb_fb (m : Memory) : (s.setFb m).fb = m := rfl
@[simp] theorem State.setFb_hostOps (m : Memory) : (s.setFb m).hostOps = s.hostOps := rfl
@[simp] theorem State.setFb_replies (m : Memory) : (s.setFb m).replies = s.replies := rfl
@[simp] theorem State.setFb_freeCtr (m : Memory) : (s.setFb m).freeCtr = s.freeCtr := rfl

/-! `setHostOps` -/
@[simp] theorem State.setHostOps_params (ops : List HostOp) : (s.setHostOps ops).params = s.params := rfl
@[simp] theorem State.setHostOps_src (ops : List HostOp) : (s.setHostOps ops).src = s.src := rfl
@[simp] theorem State.setHostOps_stride (ops : List HostOp) : (s.setHostOps ops).stride = s.stride := rfl
@[simp] theorem State.setHostOps_bpp (ops : List HostOp) : (s.setHostOps ops).bpp = s.bpp := rfl
@[simp] theorem State.setHostOps_size (ops : List HostOp) : (s.setHostOps ops).size = s.size := rfl
@[simp] theorem State.setHostOps_row (ops : List HostOp) : (s.setHostOps ops).row = s.row := rfl
@[simp] theorem State.setHostOps_dst (ops : List HostOp) : (s.setHostOps ops).dst = s.dst := rfl
@[simp] theorem State.setHostOps_fsel (ops : List HostOp) : (s.setHostOps ops).fsel = s.fsel := rfl
@[simp] theorem State.setHostOps_data (ops : List HostOp) : (s.setHostOps ops).data = s.data := rfl
@[simp] theorem State.setHostOps_len (ops : List HostOp) : (s.setHostOps ops).len = s.len := rfl
@[simp] theorem State.setHostOps_quality (ops : List HostOp) : (s.setHostOps ops).quality = s.quality := rfl
@[simp] theorem State.setHostOps_err (ops : List HostOp) : (s.setHostOps ops).err = s.err := rfl
@[simp] theorem State.setHostOps_cost (ops : List HostOp) : (s.setHostOps ops).cost = s.cost := rfl
@[simp] theorem State.setHostOps_kind (ops : List HostOp) : (s.setHostOps ops).kind = s.kind := rfl
@[simp] theorem State.setHostOps_out (ops : List HostOp) : (s.setHostOps ops).out = s.out := rfl
@[simp] theorem State.setHostOps_acc (ops : List HostOp) : (s.setHostOps ops).acc = s.acc := rfl
@[simp] theorem State.setHostOps_cnt (ops : List HostOp) : (s.setHostOps ops).cnt = s.cnt := rfl
@[simp] theorem State.setHostOps_fin (ops : List HostOp) : (s.setHostOps ops).fin = s.fin := rfl
@[simp] theorem State.setHostOps_lo (ops : List HostOp) : (s.setHostOps ops).lo = s.lo := rfl
@[simp] theorem State.setHostOps_hi (ops : List HostOp) : (s.setHostOps ops).hi = s.hi := rfl
@[simp] theorem State.setHostOps_ht (ops : List HostOp) : (s.setHostOps ops).ht = s.ht := rfl
@[simp] theorem State.setHostOps_lzI (ops : List HostOp) : (s.setHostOps ops).lzI = s.lzI := rfl
@[simp] theorem State.setHostOps_lzQ (ops : List HostOp) : (s.setHostOps ops).lzQ = s.lzQ := rfl
@[simp] theorem State.setHostOps_lzBest (ops : List HostOp) : (s.setHostOps ops).lzBest = s.lzBest := rfl
@[simp] theorem State.setHostOps_lzBestLoc (ops : List HostOp) : (s.setHostOps ops).lzBestLoc = s.lzBestLoc := rfl
@[simp] theorem State.setHostOps_pix (ops : List HostOp) : (s.setHostOps ops).pix = s.pix := rfl
@[simp] theorem State.setHostOps_fb (ops : List HostOp) : (s.setHostOps ops).fb = s.fb := rfl
@[simp] theorem State.setHostOps_hostOps (ops : List HostOp) : (s.setHostOps ops).hostOps = ops := rfl
@[simp] theorem State.setHostOps_replies (ops : List HostOp) : (s.setHostOps ops).replies = s.replies := rfl
@[simp] theorem State.setHostOps_freeCtr (ops : List HostOp) : (s.setHostOps ops).freeCtr = s.freeCtr := rfl

/-! `setReplies` -/
@[simp] theorem State.setReplies_params (rs : List Reply) : (s.setReplies rs).params = s.params := rfl
@[simp] theorem State.setReplies_src (rs : List Reply) : (s.setReplies rs).src = s.src := rfl
@[simp] theorem State.setReplies_stride (rs : List Reply) : (s.setReplies rs).stride = s.stride := rfl
@[simp] theorem State.setReplies_bpp (rs : List Reply) : (s.setReplies rs).bpp = s.bpp := rfl
@[simp] theorem State.setReplies_size (rs : List Reply) : (s.setReplies rs).size = s.size := rfl
@[simp] theorem State.setReplies_row (rs : List Reply) : (s.setReplies rs).row = s.row := rfl
@[simp] theorem State.setReplies_dst (rs : List Reply) : (s.setReplies rs).dst = s.dst := rfl
@[simp] theorem State.setReplies_fsel (rs : List Reply) : (s.setReplies rs).fsel = s.fsel := rfl
@[simp] theorem State.setReplies_data (rs : List Reply) : (s.setReplies rs).data = s.data := rfl
@[simp] theorem State.setReplies_len (rs : List Reply) : (s.setReplies rs).len = s.len := rfl
@[simp] theorem State.setReplies_quality (rs : List Reply) : (s.setReplies rs).quality = s.quality := rfl
@[simp] theorem State.setReplies_err (rs : List Reply) : (s.setReplies rs).err = s.err := rfl
@[simp] theorem State.setReplies_cost (rs : List Reply) : (s.setReplies rs).cost = s.cost := rfl
@[simp] theorem State.setReplies_kind (rs : List Reply) : (s.setReplies rs).kind = s.kind := rfl
@[simp] theorem State.setReplies_out (rs : List Reply) : (s.setReplies rs).out = s.out := rfl
@[simp] theorem State.setReplies_acc (rs : List Reply) : (s.setReplies rs).acc = s.acc := rfl
@[simp] theorem State.setReplies_cnt (rs : List Reply) : (s.setReplies rs).cnt = s.cnt := rfl
@[simp] theorem State.setReplies_fin (rs : List Reply) : (s.setReplies rs).fin = s.fin := rfl
@[simp] theorem State.setReplies_lo (rs : List Reply) : (s.setReplies rs).lo = s.lo := rfl
@[simp] theorem State.setReplies_hi (rs : List Reply) : (s.setReplies rs).hi = s.hi := rfl
@[simp] theorem State.setReplies_ht (rs : List Reply) : (s.setReplies rs).ht = s.ht := rfl
@[simp] theorem State.setReplies_lzI (rs : List Reply) : (s.setReplies rs).lzI = s.lzI := rfl
@[simp] theorem State.setReplies_lzQ (rs : List Reply) : (s.setReplies rs).lzQ = s.lzQ := rfl
@[simp] theorem State.setReplies_lzBest (rs : List Reply) : (s.setReplies rs).lzBest = s.lzBest := rfl
@[simp] theorem State.setReplies_lzBestLoc (rs : List Reply) : (s.setReplies rs).lzBestLoc = s.lzBestLoc := rfl
@[simp] theorem State.setReplies_pix (rs : List Reply) : (s.setReplies rs).pix = s.pix := rfl
@[simp] theorem State.setReplies_fb (rs : List Reply) : (s.setReplies rs).fb = s.fb := rfl
@[simp] theorem State.setReplies_hostOps (rs : List Reply) : (s.setReplies rs).hostOps = s.hostOps := rfl
@[simp] theorem State.setReplies_replies (rs : List Reply) : (s.setReplies rs).replies = rs := rfl
@[simp] theorem State.setReplies_freeCtr (rs : List Reply) : (s.setReplies rs).freeCtr = s.freeCtr := rfl

/-! `setFreeCtr` -/
@[simp] theorem State.setFreeCtr_params (n : Nat) : (s.setFreeCtr n).params = s.params := rfl
@[simp] theorem State.setFreeCtr_src (n : Nat) : (s.setFreeCtr n).src = s.src := rfl
@[simp] theorem State.setFreeCtr_stride (n : Nat) : (s.setFreeCtr n).stride = s.stride := rfl
@[simp] theorem State.setFreeCtr_bpp (n : Nat) : (s.setFreeCtr n).bpp = s.bpp := rfl
@[simp] theorem State.setFreeCtr_size (n : Nat) : (s.setFreeCtr n).size = s.size := rfl
@[simp] theorem State.setFreeCtr_row (n : Nat) : (s.setFreeCtr n).row = s.row := rfl
@[simp] theorem State.setFreeCtr_dst (n : Nat) : (s.setFreeCtr n).dst = s.dst := rfl
@[simp] theorem State.setFreeCtr_fsel (n : Nat) : (s.setFreeCtr n).fsel = s.fsel := rfl
@[simp] theorem State.setFreeCtr_data (n : Nat) : (s.setFreeCtr n).data = s.data := rfl
@[simp] theorem State.setFreeCtr_len (n : Nat) : (s.setFreeCtr n).len = s.len := rfl
@[simp] theorem State.setFreeCtr_quality (n : Nat) : (s.setFreeCtr n).quality = s.quality := rfl
@[simp] theorem State.setFreeCtr_err (n : Nat) : (s.setFreeCtr n).err = s.err := rfl
@[simp] theorem State.setFreeCtr_cost (n : Nat) : (s.setFreeCtr n).cost = s.cost := rfl
@[simp] theorem State.setFreeCtr_kind (n : Nat) : (s.setFreeCtr n).kind = s.kind := rfl
@[simp] theorem State.setFreeCtr_out (n : Nat) : (s.setFreeCtr n).out = s.out := rfl
@[simp] theorem State.setFreeCtr_acc (n : Nat) : (s.setFreeCtr n).acc = s.acc := rfl
@[simp] theorem State.setFreeCtr_cnt (n : Nat) : (s.setFreeCtr n).cnt = s.cnt := rfl
@[simp] theorem State.setFreeCtr_fin (n : Nat) : (s.setFreeCtr n).fin = s.fin := rfl
@[simp] theorem State.setFreeCtr_lo (n : Nat) : (s.setFreeCtr n).lo = s.lo := rfl
@[simp] theorem State.setFreeCtr_hi (n : Nat) : (s.setFreeCtr n).hi = s.hi := rfl
@[simp] theorem State.setFreeCtr_ht (n : Nat) : (s.setFreeCtr n).ht = s.ht := rfl
@[simp] theorem State.setFreeCtr_lzI (n : Nat) : (s.setFreeCtr n).lzI = s.lzI := rfl
@[simp] theorem State.setFreeCtr_lzQ (n : Nat) : (s.setFreeCtr n).lzQ = s.lzQ := rfl
@[simp] theorem State.setFreeCtr_lzBest (n : Nat) : (s.setFreeCtr n).lzBest = s.lzBest := rfl
@[simp] theorem State.setFreeCtr_lzBestLoc (n : Nat) : (s.setFreeCtr n).lzBestLoc = s.lzBestLoc := rfl
@[simp] theorem State.setFreeCtr_pix (n : Nat) : (s.setFreeCtr n).pix = s.pix := rfl
@[simp] theorem State.setFreeCtr_fb (n : Nat) : (s.setFreeCtr n).fb = s.fb := rfl
@[simp] theorem State.setFreeCtr_hostOps (n : Nat) : (s.setFreeCtr n).hostOps = s.hostOps := rfl
@[simp] theorem State.setFreeCtr_replies (n : Nat) : (s.setFreeCtr n).replies = s.replies := rfl
@[simp] theorem State.setFreeCtr_freeCtr (n : Nat) : (s.setFreeCtr n).freeCtr = n := rfl

end Sys2Proof.Machine
end

