-- ==== Sys2Proof/Laws/Ops.lean ====
section
/-! SUPPORT. The shared operations of `Machine/Ops.lean`: one lemma each that says what it can do. -/

namespace Sys2Proof.Machine

variable {s t : State} {f : CmdFault} {body : State → State}

/-- Taking a fault when there is none: ERR, and nothing else (R229). -/
theorem raise_ready (h : s.Ready) : raise f s = s.setErr (faultCode f) := by simp [raise, h]

/-- Taking a fault when there is one already: nothing (R229). -/
theorem raise_faulted (h : s.err ≠ 0#4) : raise f s = s := by simp [raise, h]

/-- A fault changes ERR at most. -/
theorem raise_frame : raise f s = s.setErr (raise f s).err := by
  unfold raise
  split <;> rfl

/-- A ready block runs the command. -/
theorem command_ready (h : s.Ready) : command body s = .next (body s) := by simp [command, h]

/-- A FAULTED block ignores the command (R230). -/
theorem command_faulted (h : s.err ≠ 0#4) : command body s = .next s := by simp [command, h]

/-- What a command can answer. -/
theorem command_cases (h : command body s = .next t) : (s.Ready ∧ t = body s) ∨ (s.err ≠ 0#4 ∧ t = s) := by
  by_cases hr : s.err = 0#4
  · exact .inl ⟨hr, by simpa [command, hr] using h.symm⟩
  · exact .inr ⟨hr, by simpa [command, hr] using h.symm⟩

/-- The fault codes are 1 to 6 (R221). -/
theorem faultCode_range : 1 ≤ (faultCode f).toNat ∧ (faultCode f).toNat ≤ 6 := by cases f <;> decide

/-- Different causes have different codes (R221). -/
theorem faultCode_injective : Function.Injective faultCode := by
  intro f g h
  cases f <;> cases g <;> first | rfl | exact absurd h (by decide)

variable {b : Byte} {bs : List Byte}

/-- An append succeeds exactly when OUT is not full (R63). -/
theorem outAppend_ok (h : s.params.outCap ≠ some s.out.length) : outAppend b s = .ok (s.setOut (s.out ++ [b])) := by
  simp [outAppend, h]

/-- An append without room leaves the state as it was (R63). -/
theorem outAppend_full (h : s.params.outCap = some s.out.length) : outAppend b s = .error s := by
  simp [outAppend, h]

/-- Room for one more byte is room for an append. -/
theorem State.RoomFor.not_full {n : Nat} (h : s.RoomFor (n + 1)) : s.params.outCap ≠ some s.out.length := by
  intro hc
  have := h _ hc
  omega

/-- The capacity check of WRBITS, FLUSH and WRBE32 says whether there is room (R227). -/
theorem exceedsCap_iff {n : Nat} : exceedsCap n s = false ↔ s.RoomFor n := by
  unfold exceedsCap State.RoomFor
  cases s.params.outCap with
  | none => simp
  | some cap => simp

@[simp] theorem settle_ok : settle (.ok s) = s := rfl
@[simp] theorem settle_error : settle (.error s) = raise .outFull s := rfl

/-- What RESET keeps (R240; log entry 16). -/
theorem resetBlock_keeps :
    (resetBlock s).params = s.params ∧ (resetBlock s).pix = s.pix ∧ (resetBlock s).fb = s.fb ∧
    (resetBlock s).hostOps = s.hostOps ∧ (resetBlock s).replies = s.replies ∧
    (resetBlock s).freeCtr = s.freeCtr := ⟨rfl, rfl, rfl, rfl, rfl, rfl⟩

end Sys2Proof.Machine
end

