-- ==== Sys2Proof/Laws/BitStream.lean ====
section
/-! SUPPORT. The bit stream: what its internal operations can do, on OUT, ACC and CNT and on the bit sequence of
`42_bitstream.md` R180. -/

namespace Sys2Proof.Machine

/-! ### Bits of numbers -/

@[simp] theorem numBits_zero (v : Nat) : numBits v 0 = [] := rfl

@[simp] theorem length_numBits (v n : Nat) : (numBits v n).length = n := by simp [numBits]

@[simp] theorem length_codeBits (v n : Nat) : (codeBits v n).length = n := by simp [codeBits]

@[simp] theorem length_byteBits (b : Byte) : (byteBits b).length = 8 := by simp [byteBits]

/-- The low `m + n` bits are the low `m`, then `n` from bit `m` on. -/
theorem numBits_add (v m n : Nat) : numBits v (m + n) = numBits v m ++ numBits (v >>> m) n := by
  simp [numBits, List.range_add, Nat.testBit_shiftRight, Function.comp_def]

/-- Bits at and above `n` do not matter. -/
theorem numBits_mod (v n : Nat) : numBits (v % 2 ^ n) n = numBits v n := by
  unfold numBits
  refine List.map_congr_left fun k hk => ?_
  simp [Nat.testBit_mod_two_pow, List.mem_range.1 hk]

/-- `a` below, `m` above bit `c`. -/
theorem numBits_concat {a m c n : Nat} (ha : a < 2 ^ c) : numBits (a + m * 2 ^ c) (c + n) = numBits a c ++ numBits m n := by
  rw [numBits_add, ← numBits_mod, Nat.add_mul_mod_self_right, numBits_mod, Nat.shiftRight_eq_div_pow,
    Nat.add_mul_div_right _ _ (Nat.two_pow_pos c), Nat.div_eq_of_lt ha, Nat.zero_add]

/-! ### What the operations leave alone -/

/-- The state in which an appending operation ends, with or without room. -/
def Appended.final : Appended → State
  | .ok t => t
  | .error t => t

/-- Only OUT, ACC, CNT and FIN differ, and OUT has only grown (R44, R63). -/
def StreamFrame (s t : State) : Prop :=
  t = { s with out := t.out, acc := t.acc, cnt := t.cnt, fin := t.fin } ∧ s.out <+: t.out

theorem StreamFrame.refl (s : State) : StreamFrame s s := ⟨rfl, List.prefix_rfl⟩

theorem StreamFrame.trans {s t u : State} (h : StreamFrame s t) (h' : StreamFrame t u) : StreamFrame s u := by
  obtain ⟨h1, h2⟩ := h
  obtain ⟨h3, h4⟩ := h'
  refine ⟨?_, h2.trans h4⟩
  rw [h3, h1]

variable {s t : State} {b : Byte} {bs : List Byte}

theorem StreamFrame.setOut_append : StreamFrame s (s.setOut (s.out ++ bs)) := ⟨rfl, List.prefix_append _ _⟩

theorem StreamFrame.setBits (a : BitVec 39) (c : Nat) : StreamFrame s (s.setBits a c) := ⟨rfl, List.prefix_rfl⟩

theorem StreamFrame.markFinal (f : Bool) : StreamFrame s (markFinal f s) := by
  unfold Sys2Proof.Machine.markFinal
  split
  · exact ⟨rfl, List.prefix_rfl⟩
  · exact .refl s

/-- An operation that appends: where it ends it has changed OUT, ACC, CNT, FIN only, and where it finds no room OUT is
full. -/
def Appends (s : State) (x : Appended) : Prop :=
  StreamFrame s x.final ∧ ∀ t, x = .error t → t.params.outCap = some t.out.length

theorem Appends.ok (h : StreamFrame s t) : Appends s (.ok t) := ⟨h, by simp⟩

theorem Appends.of_frame {x : Appended} (h : StreamFrame s t) (hx : Appends t x) : Appends s x :=
  ⟨h.trans hx.1, hx.2⟩

/-- Operations that append, one after the other. -/
theorem Appends.bind {x : Appended} {g : State → Appended} (hx : Appends s x) (hg : ∀ t, x = .ok t → Appends t (g t)) :
    Appends s (x.bind g) := by
  cases x with
  | error t => exact hx
  | ok t => exact .of_frame hx.1 (hg t rfl)

theorem outAppend_appends : Appends s (outAppend b s) := by
  unfold outAppend
  split
  · next h => exact ⟨.refl s, by rintro t ⟨⟩; exact h⟩
  · exact .ok .setOut_append

theorem outAppendList_appends : Appends s (outAppendList bs s) := by
  induction bs generalizing s with
  | nil => exact .ok (.refl s)
  | cons b bs ih =>
    have h := outAppend_appends (s := s) (b := b)
    simp only [outAppendList]
    cases hx : outAppend b s with
    | error t => rw [hx] at h; exact h
    | ok t => rw [hx] at h; exact .of_frame h.1 ih

theorem drain_appends (fuel : Nat) : Appends s (drain fuel s) := by
  induction fuel generalizing s with
  | zero => exact .ok (.refl s)
  | succ fuel ih =>
    have h := outAppend_appends (s := s) (b := s.acc.setWidth 8)
    simp only [drain]
    split
    · cases hx : outAppend (s.acc.setWidth 8) s with
      | error t => rw [hx] at h; exact h
      | ok t => rw [hx] at h; exact .of_frame (h.1.trans (.setBits _ _)) ih
    · exact .ok (.refl s)

theorem writeBits_appends (v : Word) (c : Nat) : Appends s (writeBits v c s) :=
  .of_frame (.setBits _ _) (drain_appends _)

theorem flushBits_appends (f : Bool) : Appends s (flushBits f s) := by
  have h := outAppend_appends (s := s) (b := s.acc.setWidth 8)
  unfold flushBits
  split
  · cases hx : outAppend (s.acc.setWidth 8) s with
    | error t => rw [hx] at h; exact h
    | ok t => rw [hx] at h; exact .ok ((h.1.trans (.setBits _ _)).trans (.markFinal f))
  · exact .ok (.markFinal f)

theorem writeBe32_appends (v : Word) : Appends s (writeBe32 v s) := outAppendList_appends

/-! ### What a success leaves in ACC and CNT, whatever room there was -/

/-- The bits of ACC at and above CNT are 0, and CNT is 0 to 7 (R40). -/
def BitsReduced (s : State) : Prop := s.cnt ≤ 7 ∧ s.acc.toNat < 2 ^ s.cnt

/-- An append keeps OUT within OUT_CAP, with or without room (R63). -/
theorem outAppend_fits (h : s.RoomFor 0) : (outAppend b s).final.RoomFor 0 := by
  unfold outAppend
  split
  · exact h
  · next hc =>
    intro cap hcap
    have h1 := h cap hcap
    have h2 : cap ≠ s.out.length := fun e => hc (e ▸ hcap)
    simp only [Appended.final, State.setOut_out, List.length_append, List.length_singleton]
    omega

/-- The drain loop that succeeds leaves fewer than 8 bits, reduced. -/
theorem drain_reduced (fuel : Nat) (hf : s.cnt ≤ 8 * fuel + 7) (ha : s.acc.toNat < 2 ^ s.cnt)
    (h : drain fuel s = .ok t) : BitsReduced t := by
  induction fuel generalizing s with
  | zero => cases h; exact ⟨hf, ha⟩
  | succ fuel ih =>
    simp only [drain] at h
    split at h
    · next h8 =>
      unfold outAppend at h
      split at h
      · next hx =>
        split at hx
        · cases hx
        · cases hx
          refine ih ?_ ?_ h
          · simp only [State.setBits_cnt, State.setOut_cnt]
            omega
          · simp only [State.setBits_acc, State.setBits_cnt, State.setOut_acc, State.setOut_cnt,
              BitVec.toNat_ushiftRight, Nat.shiftRight_eq_div_pow]
            rw [Nat.div_lt_iff_lt_mul (by decide), ← Nat.pow_add, Nat.sub_add_cancel h8]
            exact ha
      · cases h
    · cases h
      exact ⟨by omega, ha⟩

/-- `WriteBits` that succeeds leaves ACC and CNT reduced (R40). -/
theorem writeBits_reduced {v : Word} {c : Nat} (hb : BitsReduced s) (h : writeBits v c s = .ok t) :
    BitsReduced t := by
  obtain ⟨h7, ha⟩ := hb
  have hm : v.toNat % 2 ^ c < 2 ^ c := Nat.mod_lt _ (Nat.two_pow_pos c)
  have hsum : s.acc.toNat + (v.toNat % 2 ^ c) * 2 ^ s.cnt < 2 ^ (s.cnt + c) := by
    have : (v.toNat % 2 ^ c + 1) * 2 ^ s.cnt ≤ 2 ^ c * 2 ^ s.cnt := Nat.mul_le_mul_right _ hm
    rw [Nat.pow_add, Nat.mul_comm (2 ^ s.cnt)]
    rw [Nat.add_mul, Nat.one_mul] at this
    omega
  refine drain_reduced _ ?_ ?_ h
  · simp only [State.setBits_cnt]
    omega
  · simp only [State.setBits_cnt, State.setBits_acc, BitVec.toNat_add, BitVec.toNat_shiftLeft, BitVec.toNat_ofNat,
      Nat.shiftLeft_eq]
    refine Nat.lt_of_le_of_lt (Nat.mod_le _ _) (Nat.lt_of_le_of_lt (Nat.add_le_add_left (Nat.mod_le _ _) _) ?_)
    exact Nat.lt_of_le_of_lt (Nat.add_le_add_left (Nat.mul_le_mul_right _ (Nat.mod_le _ _)) _) hsum

/-- `FlushBits` that succeeds leaves ACC and CNT reduced: CNT is 0 (R185). -/
theorem flushBits_reduced {f : Bool} (hb : BitsReduced s) (h : flushBits f s = .ok t) : BitsReduced t ∧ t.cnt = 0 := by
  unfold flushBits outAppend at h
  split at h
  · split at h
    · cases h
      cases f <;> exact ⟨⟨Nat.zero_le _, Nat.zero_lt_one⟩, rfl⟩
    · cases h
  · next h0 =>
    have hc : s.cnt = 0 := by omega
    cases h
    cases f <;> exact ⟨hb, hc⟩

/-! ### What they append when there is room -/

/-- Appending a list of bytes into enough room. -/
theorem outAppendList_ok (h : s.RoomFor bs.length) : outAppendList bs s = .ok (s.setOut (s.out ++ bs)) := by
  induction bs generalizing s with
  | nil => simp [outAppendList, State.setOut]
  | cons b bs ih =>
    have hr : (s.setOut (s.out ++ [b])).RoomFor bs.length := fun cap hc => by
      have := h cap hc
      simp only [List.length_cons] at this
      simp only [State.setOut_out, List.length_append, List.length_singleton]
      omega
    simp only [outAppendList, outAppend_ok (State.RoomFor.not_full h), ih hr]
    simp [State.setOut]

/-- The drain loop: OUT takes the whole bytes, ACC and CNT keep the rest, the bit sequence is the same. -/
theorem drain_ok (fuel : Nat) (hf : s.cnt ≤ 8 * fuel + 7) (ha : s.acc.toNat < 2 ^ s.cnt)
    (hr : s.RoomFor (s.cnt / 8)) :
    ∃ t, drain fuel s = .ok t ∧ t = { s with out := t.out, acc := t.acc, cnt := s.cnt % 8 } ∧
      t.out.length = s.out.length + s.cnt / 8 ∧ t.acc.toNat < 2 ^ t.cnt ∧ t.streamBits = s.streamBits := by
  induction fuel generalizing s with
  | zero =>
    have h : s.cnt % 8 = s.cnt ∧ s.cnt / 8 = 0 := by omega
    exact ⟨s, rfl, by rw [h.1], by rw [h.2]; rfl, ha, rfl⟩
  | succ fuel ih =>
    by_cases h8 : 8 ≤ s.cnt
    · obtain ⟨n, hn⟩ : ∃ n, s.cnt = 8 + n := ⟨s.cnt - 8, by omega⟩
      have hd : s.cnt / 8 = n / 8 + 1 := by omega
      have hm : n % 8 = s.cnt % 8 := by omega
      rw [hd] at hr
      let u := (s.setOut (s.out ++ [s.acc.setWidth 8])).setBits (s.acc >>> 8) (s.cnt - 8)
      have huc : u.cnt = n := by simp [u, hn]
      have hua : u.acc.toNat < 2 ^ u.cnt := by
        rw [huc]
        simp only [u, State.setBits_acc, BitVec.toNat_ushiftRight, Nat.shiftRight_eq_div_pow]
        rw [Nat.div_lt_iff_lt_mul (by decide), ← Nat.pow_add, Nat.add_comm, ← hn]
        exact ha
      have hur : u.RoomFor (u.cnt / 8) := fun cap hc => by
        have := hr cap hc
        simp only [u, State.setBits_out, State.setOut_out, List.length_append, List.length_singleton, huc]
        omega
      obtain ⟨t, h1, h2, h3, h4, h5⟩ := ih (s := u) (by rw [huc]; omega) hua hur
      refine ⟨t, ?_, ?_, ?_, h4, ?_⟩
      · simp only [drain, if_pos h8, outAppend_ok hr.not_full]
        exact h1
      · rw [h2, huc, hm]
        rfl
      · rw [h3, huc, hd]
        simp only [u, State.setBits_out, State.setOut_out, List.length_append, List.length_singleton]
        omega
      · rw [h5]
        simp only [State.streamBits, u, State.setBits_out, State.setOut_out, State.setBits_acc, State.setBits_cnt,
          List.flatMap_append, List.flatMap_singleton, List.append_assoc]
        congr 1
        rw [hn, numBits_add, Nat.add_sub_cancel_left]
        congr 1
        · rw [byteBits, BitVec.toNat_setWidth, numBits_mod]
    · have h : s.cnt % 8 = s.cnt ∧ s.cnt / 8 = 0 := by omega
      refine ⟨s, ?_, by rw [h.1], by rw [h.2]; rfl, ha, rfl⟩
      simp only [drain, if_neg h8]

/-- `WriteBits` into enough room (R181): the bit sequence grows by the low `c` bits of `v`, bit 0 first. -/
theorem writeBits_ok {v : Word} {c : Nat} (hc : s.cnt + c ≤ 39) (ha : s.acc.toNat < 2 ^ s.cnt)
    (hr : s.RoomFor ((s.cnt + c) / 8)) :
    ∃ t, writeBits v c s = .ok t ∧ t = { s with out := t.out, acc := t.acc, cnt := (s.cnt + c) % 8 } ∧
      t.out.length = s.out.length + (s.cnt + c) / 8 ∧ t.acc.toNat < 2 ^ t.cnt ∧
      t.streamBits = s.streamBits ++ numBits v.toNat c := by
  have hm : v.toNat % 2 ^ c < 2 ^ c := Nat.mod_lt _ (Nat.two_pow_pos c)
  have hsum : s.acc.toNat + (v.toNat % 2 ^ c) * 2 ^ s.cnt < 2 ^ (s.cnt + c) := by
    have : (v.toNat % 2 ^ c + 1) * 2 ^ s.cnt ≤ 2 ^ c * 2 ^ s.cnt := Nat.mul_le_mul_right _ hm
    rw [Nat.pow_add, Nat.mul_comm (2 ^ s.cnt)]
    rw [Nat.add_mul, Nat.one_mul] at this
    omega
  have h39 : 2 ^ (s.cnt + c) ≤ 2 ^ 39 := Nat.pow_le_pow_right (by decide) hc
  let u := s.setBits (s.acc + (BitVec.ofNat 39 (v.toNat % 2 ^ c) <<< s.cnt)) (s.cnt + c)
  have hua : u.acc.toNat = s.acc.toNat + (v.toNat % 2 ^ c) * 2 ^ s.cnt := by
    have hc39 : 2 ^ c ≤ 2 ^ 39 := Nat.pow_le_pow_right (by decide) (by omega)
    simp only [u, State.setBits_acc, BitVec.toNat_add, BitVec.toNat_shiftLeft, BitVec.toNat_ofNat, Nat.shiftLeft_eq]
    rw [Nat.mod_eq_of_lt (a := v.toNat % 2 ^ c) (by omega), Nat.mod_eq_of_lt (a := _ * _) (by omega),
      Nat.mod_eq_of_lt (by omega)]
  obtain ⟨t, h1, h2, h3, h4, h5⟩ := drain_ok (s := u) (s.cnt + c) (by simp only [u, State.setBits_cnt]; omega)
    (by rw [hua]; exact hsum) hr
  refine ⟨t, h1, h2, h3, h4, ?_⟩
  rw [h5]
  simp only [State.streamBits, hua, List.append_assoc]
  congr 1
  exact (numBits_concat ha).trans (by rw [numBits_mod])

/-- `FlushBits` into enough room (R185). -/
theorem flushBits_ok {f : Bool} (hr : s.cnt = 0 ∨ s.RoomFor 1) :
    flushBits f s = .ok (markFinal f
      (if 0 < s.cnt then (s.setOut (s.out ++ [s.acc.setWidth 8])).setBits 0#39 0 else s)) := by
  unfold flushBits
  split
  · next h =>
    have hr : s.RoomFor 1 := hr.resolve_left (by omega)
    rw [outAppend_ok (hr.not_full (n := 0))]
  · rfl

/-- `WriteBe32` into enough room (R188). -/
theorem writeBe32_ok {v : Word} (hr : s.RoomFor 4) : writeBe32 v s = .ok (s.setOut (s.out ++ bigEndian v)) :=
  outAppendList_ok hr

end Sys2Proof.Machine
end

