-- ==== Sys2Proof/Laws/Checksum.lean ====
section
/-! SUPPORT. The checksum unit: what its operations leave alone, and that they leave the sums reduced. -/

namespace Sys2Proof.Machine

variable {s t : State} {blk : List Byte}

/-- A byte of the buffer depends on DATA, FB and what unwritten FB bytes hold. -/
theorem bufAt_congr (hp : t.params = s.params) (hf : t.fb = s.fb) (hd : t.data = s.data) : t.bufAt = s.bufAt := by
  funext k
  simp [State.bufAt, State.fbAt, State.fbBg, hp, hf, hd]

theorem length_bufSlice (s : State) (pos n : Nat) : (s.bufSlice pos n).length = n := by simp [State.bufSlice]

theorem length_buffer (s : State) : s.buffer.length = s.len.toNat := length_bufSlice s 0 _

/-- A buffer in two pieces. -/
theorem bufSlice_add (s : State) (pos m n : Nat) : s.bufSlice pos (m + n) = s.bufSlice pos m ++ s.bufSlice (pos + m) n := by
  simp [State.bufSlice, List.range_add, Nat.add_assoc, Function.comp_def]

/-- A reduced sum fits 16 bits. -/
theorem toNat_mod_base (n : Nat) : (BitVec.ofNat 16 (n % BASE)).toNat = n % BASE := by
  have : n % BASE < BASE := Nat.mod_lt _ (by decide)
  simp only [BASE] at this ⊢
  rw [BitVec.toNat_ofNat, Nat.mod_eq_of_lt (by omega)]

/-- The sums after a block step (R194), reduced. -/
theorem blockStep_sums :
    (blockStep blk s).lo.toNat = (s.lo.toNat + blockSum blk) % BASE ∧
    (blockStep blk s).hi.toNat = (s.hi.toNat + blk.length * s.lo.toNat + blockWeighted blk) % BASE :=
  ⟨toNat_mod_base _, toNat_mod_base _⟩

/-- Only LO and HI differ. -/
def SumFrame (s t : State) : Prop := t = { s with lo := t.lo, hi := t.hi }

theorem blockStep_frame : SumFrame s (blockStep blk s) := rfl

theorem blocks_frame (fuel pos : Nat) : SumFrame s (blocks fuel pos s) := by
  induction fuel generalizing pos s with
  | zero => rfl
  | succ fuel ih =>
    simp only [blocks]
    split
    · have h := ih (s := blockStep (s.bufSlice pos (min NMAX (s.len.toNat - pos))) s)
        (pos + min NMAX (s.len.toNat - pos))
      unfold SumFrame at h ⊢
      rw [h]
      rfl
    · rfl

theorem checksumInit_frame : SumFrame s (checksumInit s) := rfl

theorem checksumRun_frame : SumFrame s (checksumRun s) := blocks_frame _ _

/-- Blocks leave reduced sums reduced. -/
theorem blocks_reduced (fuel pos : Nat) (hl : s.lo.toNat < BASE) (hh : s.hi.toNat < BASE) :
    (blocks fuel pos s).lo.toNat < BASE ∧ (blocks fuel pos s).hi.toNat < BASE := by
  induction fuel generalizing pos s with
  | zero => exact ⟨hl, hh⟩
  | succ fuel ih =>
    simp only [blocks]
    split
    · obtain ⟨h1, h2⟩ := blockStep_sums (s := s) (blk := s.bufSlice pos (min NMAX (s.len.toNat - pos)))
      exact ih _ (by rw [h1]; exact Nat.mod_lt _ (by decide)) (by rw [h2]; exact Nat.mod_lt _ (by decide))
    · exact ⟨hl, hh⟩

/-- What ADUPD can do: a fault, or the checksum of the buffer. -/
theorem adupd_cases :
    (LEN_LIMIT ≤ s.len.toNat ∧ adupd s = raise .badCfg s) ∨
    (s.len.toNat < LEN_LIMIT ∧ ¬s.bufInFb ∧ adupd s = raise .badAddr s) ∨
    (s.len.toNat < LEN_LIMIT ∧ s.bufInFb ∧ adupd s = checksumRun s) := by
  unfold adupd
  by_cases h1 : LEN_LIMIT ≤ s.len.toNat
  · exact .inl ⟨h1, if_pos h1⟩
  · by_cases h2 : s.bufInFb
    · exact .inr (.inr ⟨by omega, h2, by rw [if_neg h1, if_neg (not_not_intro h2)]⟩)
    · exact .inr (.inl ⟨by omega, h2, by rw [if_neg h1, if_pos h2]⟩)

end Sys2Proof.Machine
end

