-- ==== Sys2Proof/Laws/Encoding.lean ====
section
/-! SUPPORT. The fields of a packed command word, and a word from its fields. -/

namespace Sys2Proof

variable (op : BitVec 8) (n6 : BitVec 6) (imm : Word) (w : CmdWord)

theorem getLsbD_packWord (i : Nat) : (packWord op n6 imm).getLsbD i =
    if i < 32 then imm.getLsbD i else if i < 38 then n6.getLsbD (i - 32)
    else if i < 56 then false else op.getLsbD (i - 56) := by
  unfold packWord
  rw [BitVec.getLsbD_append, BitVec.getLsbD_append, BitVec.getLsbD_append]
  by_cases h1 : i < 32
  · simp [h1]
  · by_cases h2 : i < 38
    · simp [h1, h2, show i - 32 < 6 by omega]
    · by_cases h3 : i < 56
      · simp [h1, h2, h3, show ¬(i - 32 < 6) by omega, show i - 32 - 6 < 18 by omega]
      · simp [h1, h2, h3, show ¬(i - 32 < 6) by omega, show ¬(i - 32 - 6 < 18) by omega,
          show i - 32 - 6 - 18 = i - 56 by omega]

@[simp] theorem opField_packWord : opField (packWord op n6 imm) = op := by
  apply BitVec.eq_of_getLsbD_eq
  intro i hi
  simp [opField, getLsbD_packWord, hi, show ¬(56 + i < 32) by omega, show ¬(56 + i < 38) by omega]

@[simp] theorem rsvField_packWord : rsvField (packWord op n6 imm) = 0#18 := by
  apply BitVec.eq_of_getLsbD_eq
  intro i hi
  simp [rsvField, getLsbD_packWord, show ¬(38 + i < 32) by omega, show 38 + i < 56 by omega]

@[simp] theorem n6Field_packWord : n6Field (packWord op n6 imm) = n6 := by
  apply BitVec.eq_of_getLsbD_eq
  intro i hi
  simp [n6Field, getLsbD_packWord, hi, show 32 + i < 38 by omega]

@[simp] theorem immField_packWord : immField (packWord op n6 imm) = imm := by
  apply BitVec.eq_of_getLsbD_eq
  intro i hi
  simp [immField, getLsbD_packWord, hi]

/-- A word whose reserved field is 0 is its other three fields packed. -/
theorem packWord_fields (h : rsvField w = 0#18) : packWord (opField w) (n6Field w) (immField w) = w := by
  apply BitVec.eq_of_getLsbD_eq
  intro i hi
  rw [getLsbD_packWord]
  split
  · next h1 => simp [immField, h1]
  · split
    · next h1 h2 => simp [n6Field, show i - 32 < 6 by omega, show 32 + (i - 32) = i by omega]
    · split
      · next h1 h2 h3 =>
        have := congrArg (fun v => v.getLsbD (i - 38)) h
        simpa [rsvField, show i - 38 < 18 by omega, show 38 + (i - 38) = i by omega] using this.symm
      · simp [opField, show i - 56 < 8 by omega, show 56 + (i - 56) = i by omega]

end Sys2Proof
end

