-- ==== Sys2Proof/Laws/Items.lean ====
section
/-! SUPPORT. What the encoder's items mean: lengths, and items one after the other. -/

namespace Sys2Proof.Machine

theorem length_copyBack (D n : Nat) (out : List Byte) : (copyBack D n out).length = out.length + n := by
  induction n generalizing out with
  | zero => rfl
  | succ n ih => simp only [copyBack, ih, List.length_append, List.length_singleton]; omega

theorem length_expandItems (out : List Byte) (is : List Item) :
    (expandItems out is).length = out.length + (is.map itemLen).sum := by
  induction is generalizing out with
  | nil => simp [expandItems]
  | cons x is ih => cases x <;> simp [expandItems, ih, itemLen, length_copyBack] <;> omega

theorem expandItems_append (out : List Byte) (is js : List Item) :
    expandItems out (is ++ js) = expandItems (expandItems out is) js := by
  induction is generalizing out with
  | nil => rfl
  | cons x is ih => cases x <;> simp [expandItems, ih]

theorem itemsLegal_append {n : Nat} {is js : List Item} (h : itemsLegal n is)
    (h' : itemsLegal (n + (is.map itemLen).sum) js) : itemsLegal n (is ++ js) := by
  induction is generalizing n with
  | nil => simpa using h'
  | cons x is ih =>
    cases x with
    | lit b => exact ih h (by simpa [itemLen, Nat.add_assoc] using h')
    | copy L D => exact ⟨h.1, ih h.2 (by simpa [itemLen, Nat.add_assoc] using h')⟩

end Sys2Proof.Machine
end

