-- ==== Sys2Proof/Laws/Lz77.lean ====
section
/-! SUPPORT. ZCOMP: what its parts leave alone, and what the command can do. -/

namespace Sys2Proof.Machine

/-- Only the state of units BS, AD and LZ differs, and OUT has only grown. -/
def LzFrame (s t : State) : Prop :=
  t = { s with
    out := t.out, acc := t.acc, cnt := t.cnt, fin := t.fin, lo := t.lo, hi := t.hi, ht := t.ht, lzI := t.lzI,
    lzQ := t.lzQ, lzBest := t.lzBest, lzBestLoc := t.lzBestLoc } ∧ s.out <+: t.out

theorem LzFrame.refl (s : State) : LzFrame s s := ⟨rfl, List.prefix_rfl⟩

theorem LzFrame.trans {s t u : State} (h : LzFrame s t) (h' : LzFrame t u) : LzFrame s u := by
  obtain ⟨h1, h2⟩ := h
  obtain ⟨h3, h4⟩ := h'
  refine ⟨?_, h2.trans h4⟩
  rw [h3, h1]

variable {s t : State}

theorem StreamFrame.lz (h : StreamFrame s t) : LzFrame s t := ⟨by rw [h.1], h.2⟩

theorem SumFrame.lz (h : SumFrame s t) : LzFrame s t := by
  have ho : t.out = s.out := by rw [h]
  exact ⟨by rw [h], ho ▸ List.prefix_rfl⟩

theorem LzFrame.setBest (b : Nat) (l : Option Nat) : LzFrame s (s.setBest b l) := ⟨rfl, List.prefix_rfl⟩
theorem LzFrame.setHt (t : HashTable) : LzFrame s (s.setHt t) := ⟨rfl, List.prefix_rfl⟩
theorem LzFrame.setPos (i : Nat) : LzFrame s (s.setPos i) := ⟨rfl, List.prefix_rfl⟩
theorem LzFrame.setQ (q : Nat) : LzFrame s (s.setQ q) := ⟨rfl, List.prefix_rfl⟩

theorem probeSlots_frame (b : List Int) : LzFrame s (probeSlots b s) := by
  induction b generalizing s with
  | nil => exact .refl s
  | cons p ps ih =>
    simp only [probeSlots]
    split
    · exact .refl s
    · split
      · exact (LzFrame.setBest _ _).trans ih
      · exact ih

/-- Deciding what to emit at I writes HT, BEST and BESTLOC only. -/
theorem findMatch_frame : LzFrame s (findMatch s) := by
  have h : LzFrame s (insertPos (hashAt s s.lzI) (probe (hashAt s s.lzI) s)) :=
    ((LzFrame.setBest _ _).trans (probeSlots_frame _)).trans (.setHt _)
  unfold findMatch lazyCheck
  split
  · exact h.trans (.setBest _ _)
  · exact h

/-- A part of ZCOMP: where it ends only units BS, AD, LZ have changed, and where it finds no room OUT is full. -/
def LzAppends (s : State) (x : Appended) : Prop :=
  LzFrame s x.final ∧ ∀ t, x = .error t → t.params.outCap = some t.out.length

theorem Appends.lz {x : Appended} (h : Appends s x) : LzAppends s x := ⟨h.1.lz, h.2⟩

theorem LzAppends.ok (h : LzFrame s t) : LzAppends s (.ok t) := ⟨h, by simp⟩

theorem LzAppends.of_frame {x : Appended} (h : LzFrame s t) (hx : LzAppends t x) : LzAppends s x :=
  ⟨h.trans hx.1, hx.2⟩

theorem LzAppends.bind {x : Appended} {g : State → Appended} (hx : LzAppends s x) (hg : ∀ t, LzAppends t (g t)) :
    LzAppends s (x.bind g) := by
  cases x with
  | error t => exact hx
  | ok t => exact .of_frame hx.1 (hg t)

theorem putSym_appends (sym : Nat) : Appends s (putSym sym s) := writeBits_appends _ _

theorem putExtra_appends (v n : Nat) : Appends s (putExtra v n s) := by
  unfold putExtra
  split
  · exact writeBits_appends _ _
  · exact .ok (.refl s)

theorem putMatch_appends (L D : Nat) : Appends s (putMatch L D s) :=
  ((putSym_appends _).bind fun _ _ => putExtra_appends _ _).bind fun _ _ =>
    (writeBits_appends _ _).bind fun _ _ => putExtra_appends _ _

theorem emitAt_appends : LzAppends s (emitAt s) := by
  unfold emitAt
  split
  · exact (putMatch_appends _ _).lz.bind fun _ => .ok (.setPos _)
  · exact (putSym_appends _).lz.bind fun _ => .ok (.setPos _)

theorem mainLoop_appends (fuel : Nat) : LzAppends s (mainLoop fuel s) := by
  induction fuel generalizing s with
  | zero => exact .ok (.refl s)
  | succ fuel ih =>
    simp only [mainLoop]
    split
    · exact (LzAppends.of_frame findMatch_frame emitAt_appends).bind fun _ => ih
    · exact .ok (.refl s)

theorem tailLoop_appends (fuel : Nat) : LzAppends s (tailLoop fuel s) := by
  induction fuel generalizing s with
  | zero => exact .ok (.refl s)
  | succ fuel ih =>
    simp only [tailLoop]
    split
    · exact (putSym_appends _).lz.bind fun _ => .of_frame (.setPos _) ih
    · exact .ok (.refl s)

theorem zlibHeader_appends : Appends s (zlibHeader s) :=
  (writeBits_appends _ _).bind fun _ _ => (writeBits_appends _ _).bind fun _ _ =>
    (writeBits_appends _ _).bind fun _ _ => writeBits_appends _ _

theorem zlibTrailer_appends : LzAppends s (zlibTrailer s) :=
  .of_frame (SumFrame.lz checksumInit_frame) (.of_frame (SumFrame.lz checksumRun_frame) (writeBe32_appends _).lz)

theorem zcompStream_appends : LzAppends s (zcompStream s) :=
  .of_frame ((LzFrame.setQ _).trans (.setHt _)) <|
    zlibHeader_appends.lz.bind fun _ => (LzAppends.of_frame (.setPos 0) (mainLoop_appends _)).bind fun _ =>
      (tailLoop_appends _).bind fun _ => (putSym_appends 256).lz.bind fun _ =>
        (flushBits_appends true).lz.bind fun _ => zlibTrailer_appends

/-! ### The hash table -/

/-- A bucket after a bucket was written. -/
theorem bucketOf_setBucket (q : Nat) (ht : HashTable) (h : Nat) (b : List Int) (h' : Nat) :
    bucketOf q (setBucket ht h b) h' = if h' = h then b else bucketOf q ht h' := by
  induction ht with
  | nil =>
    simp only [setBucket, bucketOf]
    by_cases e : h = h'
    · subst e; simp
    · rw [if_neg e, if_neg (Ne.symm e)]
  | cons c ht ih =>
    obtain ⟨k, c⟩ := c
    simp only [setBucket]
    by_cases hk : k = h
    · subst hk
      rw [if_pos rfl]
      simp only [bucketOf]
      by_cases e : k = h'
      · subst e; simp
      · rw [if_neg e, if_neg (Ne.symm e), if_neg e]
    · simp only [hk, if_false, bucketOf, ih]
      by_cases h1 : k = h' <;> by_cases h2 : h' = h <;> simp_all

/-- An insertion adds no offset but the one inserted. -/
theorem mem_insertSlot {q : Nat} {b : List Int} {i p : Int} (h : p ∈ insertSlot q b i) : p ∈ b ∨ p = -1 ∨ p = i := by
  unfold insertSlot at h
  split at h
  · rcases List.mem_or_eq_of_mem_set h with h | h
    · rcases List.mem_append.1 h with h | h
      · exact .inl (List.mem_of_mem_drop h)
      · exact .inr (.inl (List.eq_of_mem_replicate h))
    · exact .inr (.inr h)
  · rcases List.mem_or_eq_of_mem_set h with h | h
    · exact .inl h
    · exact .inr (.inr h)

/-- A match length is within its bound. -/
theorem matchLen_le (d : Nat → Byte) (p j limit : Nat) : matchLen d p j limit ≤ limit := by
  induction limit generalizing p j with
  | zero => exact Nat.le_refl 0
  | succ n ih =>
    have := ih (p + 1) (j + 1)
    simp only [matchLen]
    split <;> omega

/-- The outcome of ZCOMP's checks (R142), and the condition that gives it. -/
theorem zcompCheck_cases :
    (zcompCheck s = some .badCfg ∧ LEN_LIMIT ≤ s.len.toNat) ∨
    (zcompCheck s = some .notAligned ∧ s.len.toNat < LEN_LIMIT ∧ s.cnt ≠ 0) ∨
    (zcompCheck s = some .badAddr ∧ s.len.toNat < LEN_LIMIT ∧ s.cnt = 0 ∧ ¬s.bufInFb) ∨
    (zcompCheck s = none ∧ s.len.toNat < LEN_LIMIT ∧ s.cnt = 0 ∧ s.bufInFb) := by
  unfold zcompCheck
  by_cases h1 : LEN_LIMIT ≤ s.len.toNat
  · exact .inl ⟨if_pos h1, h1⟩
  · rw [if_neg h1]
    by_cases h2 : s.cnt = 0
    · rw [if_neg (not_not_intro h2)]
      by_cases h3 : s.bufInFb
      · exact .inr (.inr (.inr ⟨if_neg (not_not_intro h3), by omega, h2, h3⟩))
      · exact .inr (.inr (.inl ⟨if_pos h3, by omega, h2, h3⟩))
    · exact .inr (.inl ⟨if_pos h2, by omega, h2⟩)

/-! ### The match finder does not look at the output stream -/

/-- `s` with another output stream. -/
def State.restream (s : State) (o : List Byte) (a : BitVec 39) (c : Nat) : State := { s with out := o, acc := a, cnt := c }

variable {o : List Byte} {a : BitVec 39} {c : Nat}

theorem probeSlots_restream (b : List Int) :
    probeSlots b (s.restream o a c) = (probeSlots b s).restream o a c := by
  induction b generalizing s with
  | nil => rfl
  | cons p ps ih =>
    simp only [probeSlots]
    split
    · rfl
    · by_cases h : inWindow p s.lzI = true ∧ s.lzBest ≤ candLen s p s.lzI
      · rw [if_pos h]
        exact (if_pos h).trans (ih (s := s.setBest (candLen s p s.lzI) (some p.toNat)))
      · rw [if_neg h]
        exact (if_neg h).trans ih

theorem longerAhead_restream (b : List Int) : longerAhead (s.restream o a c) b = longerAhead s b := by
  induction b with
  | nil => rfl
  | cons p ps ih =>
    simp only [longerAhead, ih]
    rfl

theorem lazyCheck_restream : lazyCheck (s.restream o a c) = (lazyCheck s).restream o a c := by
  unfold lazyCheck
  rw [longerAhead_restream]
  by_cases h : s.lzBestLoc ≠ none ∧ longerAhead s (bucketOf s.lzQ s.ht (hashAt s (s.lzI + 1)))
  · rw [if_pos h]
    exact if_pos h
  · rw [if_neg h]
    exact if_neg h

/-- What the match finder decides depends on nothing of OUT, ACC and CNT, and leaves them (R162). -/
theorem findMatch_restream : findMatch (s.restream o a c) = (findMatch s).restream o a c := by
  have h : probe (hashAt s s.lzI) (s.restream o a c) = (probe (hashAt s s.lzI) s).restream o a c :=
    probeSlots_restream (s := s.setBest MIN_MATCH none) (bucketOf s.lzQ s.ht (hashAt s s.lzI))
  show lazyCheck (insertPos (hashAt s s.lzI) (probe (hashAt s s.lzI) (s.restream o a c))) = _
  rw [h]
  exact lazyCheck_restream (s := insertPos (hashAt s s.lzI) (probe (hashAt s s.lzI) s))

/-! ### The command -/

/-- Forgetting HT (R45; log entry 7) changes HT and the counter of free values. -/
theorem forgetTable_frame :
    forgetTable s = { s with ht := (forgetTable s).ht, freeCtr := s.freeCtr + 1 } := rfl

@[simp] theorem forgetTable_out : (forgetTable s).out = s.out := rfl
@[simp] theorem forgetTable_err : (forgetTable s).err = s.err := rfl

/-- What an OUT_FULL inside ZCOMP makes free (R161; log entry 6). -/
theorem abandon_frame :
    abandon s = { s with
      acc := (abandon s).acc, cnt := (abandon s).cnt, fin := (abandon s).fin, lo := (abandon s).lo,
      hi := (abandon s).hi, ht := (abandon s).ht, freeCtr := s.freeCtr + 1 } := rfl

@[simp] theorem abandon_out : (abandon s).out = s.out := by simp [abandon]
@[simp] theorem abandon_err : (abandon s).err = s.err := by simp [abandon]

/-- CNT stays within BITCNT[2:0] (R39). -/
theorem abandon_cnt_le : (abandon s).cnt ≤ 7 := Nat.le_of_lt_succ (Config.freeCnt s.freeCtr).isLt

/-- What ZCOMP can do: one of its three faults (R142), a whole stream, or OUT_FULL on the way (R161). -/
theorem zcomp_cases :
    (∃ f, zcompCheck s = some f ∧ zcomp s = raise f s) ∨
    (zcompCheck s = none ∧ ∃ t, zcompStream s = .ok t ∧ LzFrame s t ∧ zcomp s = forgetTable t) ∨
    (zcompCheck s = none ∧ ∃ t, zcompStream s = .error t ∧ LzFrame s t ∧ t.params.outCap = some t.out.length ∧
      zcomp s = raise .outFull (abandon t)) := by
  unfold zcomp
  cases hc : zcompCheck s with
  | some f => exact .inl ⟨f, rfl, rfl⟩
  | none =>
    have h := zcompStream_appends (s := s)
    cases hs : zcompStream s with
    | ok t => rw [hs] at h; exact .inr (.inl ⟨rfl, t, rfl, h.1, rfl⟩)
    | error t => rw [hs] at h; exact .inr (.inr ⟨rfl, t, rfl, h.1, h.2 t rfl, rfl⟩)

end Sys2Proof.Machine
end

