-- ==== Sys2Proof/Laws/PerInstr.lean ====
section
/-! SUPPORT. Statements made constructor by constructor. `TableRow`: the word of a command matches its row of the opcode map
(`30_encoding.md` R85), and only that row. -/

namespace Sys2Proof.Laws.TableRow

/-- The rows of the opcode map that the word of `i` matches are the one named after `i`. -/
def Statement (i : Instr) : Prop :=
  (opcodeMap.filter fun r => encode i &&& r.mask == r.code).map OpRow.mnemonic = [mnemonicOf i]

theorem fltNone : Statement .fltNone := by unfold Statement; decide +kernel
theorem fltSub : Statement .fltSub := by unfold Statement; decide +kernel
theorem fltUp : Statement .fltUp := by unfold Statement; decide +kernel
theorem fltAvg : Statement .fltAvg := by unfold Statement; decide +kernel
theorem fltPaeth : Statement .fltPaeth := by unfold Statement; decide +kernel
theorem fltAuto : Statement .fltAuto := by unfold Statement; decide +kernel
theorem zcomp : Statement .zcomp := by unfold Statement; decide +kernel
theorem bsclr : Statement .bsclr := by unfold Statement; decide +kernel
theorem adinit : Statement .adinit := by unfold Statement; decide +kernel
theorem adupd : Statement .adupd := by unfold Statement; decide +kernel

theorem flush (final : Bool) : Statement (.flush final) := by
  unfold Statement
  cases final <;> decide +kernel

/-- A row with another opcode does not match. -/
theorem and_mask_ne {w m c : CmdWord} (hm : opField m = 0xFF#8) (h : opField w ≠ opField c) : (w &&& m == c) = false := by
  rw [beq_eq_false_iff_ne]
  intro he
  apply h
  have h8 : opField (w &&& m) = opField w &&& opField m := by
    apply BitVec.eq_of_getLsbD_eq
    intro i hi
    simp [opField, hi]
  rw [← he, h8, hm]
  exact (BitVec.and_allOnes (x := opField w)).symm

theorem wrbits (value : Word) (count : Nat) : Statement (.wrbits value count) := by
  have hop : opField (encode (.wrbits value count)) = 0x30#8 := opField_packWord ..
  have hself : (encode (.wrbits value count) &&& 0xFFFFFFC000000000#64 == 0x3000000000000000#64) = true := by
    rw [beq_iff_eq]
    apply BitVec.eq_of_getLsbD_eq
    intro i hi
    rw [BitVec.getLsbD_and, encode, getLsbD_packWord]
    by_cases h38 : i < 38
    · have : ∀ j : Fin 38, (0xFFFFFFC000000000#64).getLsbD j.val = false ∧ (0x3000000000000000#64).getLsbD j.val = false := by
        decide
      simp [this ⟨i, h38⟩]
    · have : ∀ j : Fin 26, (0xFFFFFFC000000000#64).getLsbD (38 + j.val) = true ∧
          (if 38 + j.val < 56 then false else (0x30#8).getLsbD (38 + j.val - 56)) =
            (0x3000000000000000#64).getLsbD (38 + j.val) := by decide
      have h := this ⟨i - 38, by omega⟩
      simp only [show 38 + (i - 38) = i by omega] at h
      simp only [show ¬ i < 32 by omega, h38, if_false, h.1, Bool.and_true, opcodeOf, h.2]
  unfold Statement opcodeMap
  simp only [List.filter, hself]
  rw [and_mask_ne (by decide) (by rw [hop]; decide), and_mask_ne (by decide) (by rw [hop]; decide),
    and_mask_ne (by decide) (by rw [hop]; decide), and_mask_ne (by decide) (by rw [hop]; decide),
    and_mask_ne (by decide) (by rw [hop]; decide), and_mask_ne (by decide) (by rw [hop]; decide),
    and_mask_ne (by decide) (by rw [hop]; decide), and_mask_ne (by decide) (by rw [hop]; decide),
    and_mask_ne (by decide) (by rw [hop]; decide), and_mask_ne (by decide) (by rw [hop]; decide),
    and_mask_ne (by decide) (by rw [hop]; decide), and_mask_ne (by decide) (by rw [hop]; decide)]
  rfl

theorem wrbe32 (value : Word) : Statement (.wrbe32 value) := by
  have hop : opField (encode (.wrbe32 value)) = 0x32#8 := opField_packWord ..
  have hself : (encode (.wrbe32 value) &&& 0xFFFFFFFF00000000#64 == 0x3200000000000000#64) = true := by
    rw [beq_iff_eq]
    apply BitVec.eq_of_getLsbD_eq
    intro i hi
    rw [BitVec.getLsbD_and, encode, getLsbD_packWord]
    by_cases h32 : i < 32
    · have : ∀ j : Fin 32, (0xFFFFFFFF00000000#64).getLsbD j.val = false ∧ (0x3200000000000000#64).getLsbD j.val = false := by
        decide
      simp [this ⟨i, h32⟩]
    · have : ∀ j : Fin 32, (0xFFFFFFFF00000000#64).getLsbD (32 + j.val) = true ∧
          (if 32 + j.val < 38 then (0#6).getLsbD (32 + j.val - 32)
            else if 32 + j.val < 56 then false else (0x32#8).getLsbD (32 + j.val - 56)) =
            (0x3200000000000000#64).getLsbD (32 + j.val) := by decide
      have h := this ⟨i - 32, by omega⟩
      simp only [show 32 + (i - 32) = i by omega] at h
      simp only [h32, if_false, h.1, Bool.and_true, opcodeOf, n6Of, h.2]
  unfold Statement opcodeMap
  simp only [List.filter, hself]
  rw [and_mask_ne (by decide) (by rw [hop]; decide), and_mask_ne (by decide) (by rw [hop]; decide),
    and_mask_ne (by decide) (by rw [hop]; decide), and_mask_ne (by decide) (by rw [hop]; decide),
    and_mask_ne (by decide) (by rw [hop]; decide), and_mask_ne (by decide) (by rw [hop]; decide),
    and_mask_ne (by decide) (by rw [hop]; decide), and_mask_ne (by decide) (by rw [hop]; decide),
    and_mask_ne (by decide) (by rw [hop]; decide), and_mask_ne (by decide) (by rw [hop]; decide),
    and_mask_ne (by decide) (by rw [hop]; decide), and_mask_ne (by decide) (by rw [hop]; decide)]
  rfl

end Sys2Proof.Laws.TableRow
end

