-- ==== Sys2Proof/Laws/RowFilter.lean ====
section
/-! SUPPORT. The row filter: its checks, what it can do, and what `Apply` leaves in FB. -/

namespace Sys2Proof.Machine

variable {s : State} {k : FilterKind}

@[simp] theorem length_filteredRow (s : State) (k : FilterKind) : (filteredRow s k).length = s.size.toNat := by
  simp [filteredRow]

/-- The checks pass exactly when every condition of R121 holds. -/
theorem rowCheck_none : rowCheck s = none ↔ s.RowOk := by
  unfold rowCheck State.RowOk
  by_cases h1 : 1 ≤ s.bpp.toNat ∧ s.bpp.toNat ≤ 8
  · by_cases h2 : s.bpp.toNat ≤ s.size.toNat ∧ s.size.toNat ≤ MAX_ROW
    · by_cases h3 : s.rowInPix ∧ s.prevRowInPix ∧ s.rowInFb
      · rw [if_neg (not_not_intro h1), if_neg (not_not_intro h2), if_neg (not_not_intro h3)]
        exact ⟨fun _ => ⟨h1.1, h1.2, h2.1, h2.2, h3⟩, fun _ => rfl⟩
      · rw [if_neg (not_not_intro h1), if_neg (not_not_intro h2), if_pos h3]
        exact ⟨nofun, fun h => absurd h.2.2.2.2 h3⟩
    · rw [if_neg (not_not_intro h1), if_pos h2]
      exact ⟨nofun, fun h => absurd ⟨h.2.2.1, h.2.2.2.1⟩ h2⟩
  · rw [if_pos h1]
    exact ⟨nofun, fun h => absurd ⟨h.1, h.2.1⟩ h1⟩

/-- The outcome of the checks (R121), and the condition that gives it. -/
theorem rowCheck_cases :
    (rowCheck s = some .badCfg ∧
      ¬(1 ≤ s.bpp.toNat ∧ s.bpp.toNat ≤ 8 ∧ s.bpp.toNat ≤ s.size.toNat ∧ s.size.toNat ≤ MAX_ROW)) ∨
    (rowCheck s = some .badAddr ∧
      (1 ≤ s.bpp.toNat ∧ s.bpp.toNat ≤ 8 ∧ s.bpp.toNat ≤ s.size.toNat ∧ s.size.toNat ≤ MAX_ROW) ∧
      ¬(s.rowInPix ∧ s.prevRowInPix ∧ s.rowInFb)) ∨
    (rowCheck s = none ∧ s.RowOk) := by
  unfold rowCheck
  split
  · exact .inl ⟨rfl, by omega⟩
  · split
    · exact .inl ⟨rfl, by omega⟩
    · split
      · exact .inr (.inl ⟨rfl, by omega, ‹_›⟩)
      · next h1 h2 h3 =>
        rw [Decidable.not_not] at h1 h2 h3
        exact .inr (.inr ⟨rfl, h1.1, h1.2, h2.1, h2.2, h3⟩)

/-- A command of unit RF faults with BAD_CFG or BAD_ADDR, or applies the kind it picks. -/
theorem filterRow_cases (sel : State → FilterKind) :
    (∃ f, rowCheck s = some f ∧ filterRow sel s = raise f s) ∨
    (s.RowOk ∧ filterRow sel s = applyKind (sel s) s) := by
  unfold filterRow
  cases h : rowCheck s with
  | none => exact .inr ⟨rowCheck_none.1 h, rfl⟩
  | some f => exact .inl ⟨f, rfl, rfl⟩

/-- With the checks passed, the kind is applied. -/
theorem filterRow_ok (h : s.RowOk) (sel : State → FilterKind) : filterRow sel s = applyKind (sel s) s := by
  simp [filterRow, rowCheck_none.2 h]

/-- FB outside `DST .. DST+SIZE-1` is as before (R133). -/
theorem applyKind_fbAt_outside {a : Nat} (h : a < s.dst.toNat ∨ s.dst.toNat + s.size.toNat ≤ a) :
    (applyKind k s).fbAt a = s.fbAt a :=
  Memory.read_writeList_outside (by simpa using h)

/-- `FB[DST + i] <- F(k, i)` (R133). -/
theorem applyKind_fbAt_inside (hm : Memory.wf s.fbBg s.fb) {i : Nat} (hi : i < s.size.toNat) :
    (applyKind k s).fbAt (s.dst.toNat + i) = filtered s k i := by
  have h := Memory.read_writeList_inside (bg := s.fbBg) (m := s.fb) (a := s.dst.toNat) (bs := filteredRow s k) hm
    (i := i) (by simpa using hi)
  exact h.trans (by simp [filteredRow])

/-- A byte costs at most 128 (R126). -/
theorem byteCost_le (v : Byte) : byteCost v ≤ 128 := by
  revert v
  decide +kernel

/-- The cost is at most 128 a byte (R126). -/
theorem rowCost_le : rowCost s k ≤ 128 * s.size.toNat := by
  have h : ∀ l : List Byte, (l.map byteCost).sum ≤ 128 * l.length := by
    intro l
    induction l with
    | nil => simp
    | cons b l ih =>
      have := byteCost_le b
      simp only [List.map_cons, List.sum_cons, List.length_cons]
      omega
  have := h (filteredRow s k)
  rwa [length_filteredRow] at this

/-- The cost of a legal row fits COST (R35). -/
theorem applyKind_cost (h : s.size.toNat ≤ MAX_ROW) : (applyKind k s).cost.toNat = rowCost s k := by
  have := rowCost_le (s := s) (k := k)
  simp only [MAX_ROW] at h
  show (BitVec.ofNat 32 (rowCost s k)).toNat = _
  rw [BitVec.toNat_ofNat, Nat.mod_eq_of_lt (by omega)]

end Sys2Proof.Machine
end

