-- ==== Sys2Proof/Laws/Step.lean ====
section
/-! SUPPORT. What a step can do: idle, or the host's next operation. -/

namespace Sys2Proof.Machine

variable {s t : State} {op : HostOp} {ops : List HostOp} {w : CmdWord} {i : Instr}

/-- With no operation pending the block is idle (R241). -/
theorem step_idle (h : s.hostOps = []) : step s = .next s := by simp [step, nextOp, h]

/-- Otherwise the step performs the next operation (R200). -/
theorem step_op (h : s.hostOps = op :: ops) : step s = perform op (s.setHostOps ops) := by simp [step, nextOp, h]

/-- A FAULTED block ignores the word (R201, R230). -/
theorem runCmd_faulted (h : s.err ≠ 0#4) : runCmd w s = .next s := by simp [runCmd, h]

/-- An illegal word raises ILLEGAL_CMD (R222). -/
theorem runCmd_illegal {why : Illegal} (h : s.Ready) (hd : decode w = .illegal why) :
    runCmd w s = .next (s.setErr (faultCode .illegalCmd)) := by
  have h : s.err = 0#4 := h
  simp [runCmd, h, hd, raise]

/-- A legal word runs its command. -/
theorem runCmd_instr (h : s.Ready) (hd : decode w = .instr i) : runCmd w s = exec i s := by
  have h : s.err = 0#4 := h
  simp [runCmd, h, hd]

/-- Every command answers a next state: it runs when the block is ready, and is ignored when it is not. -/
theorem exec_next (i : Instr) (s : State) : ∃ t, exec i s = .next t ∧ (s.err ≠ 0#4 → t = s) := by
  cases i <;> exact ⟨_, rfl, fun h => if_neg h⟩

end Sys2Proof.Machine
end

