-- ==== Sys2Proof/Tests/Slice0.lean ====
section
/-! SUPPORT. The model's own tests. Expected results are the spec's: `95_test_vectors.md` and the examples of the rules named.
The second half shows, for every obligation with hypotheses, a state and operands that meet them. -/

namespace Sys2Proof.Machine.Tests

set_option Elab.async false

/-! ### Small states -/

/-- A block with small memories that power up as zeros, no limit on OUT, and the default hash. -/
def p0 : Params := ⟨64, 64, none, 10, .mix, .fill 0#8, .fill 0#8⟩

/-- That block right after reset. -/
def st : State := State.init p0

/-- Consecutive bytes from address 0 of a memory whose unwritten bytes are 0: a zero byte is not listed. -/
def cells (bs : List Byte) : Memory :=
  (bs.zipIdx.filter fun c => c.1 ≠ 0#8).map fun c => (c.2, c.1)

/-- `st` with a buffer in FB from address 0, LEN its length, QUALITY 5. -/
def buf (bs : List Byte) : State := { st with fb := cells bs, len := BitVec.ofNat 32 bs.length, quality := 5#32 }

/-- S4.3: previous row, then the scanline, in PIX; BPP 3, SIZE 9, ROW 1. -/
def row3 : State :=
  { st with
    pix := cells [0x0A, 0x14, 0x1E, 0x28, 0x32, 0x3C, 0x46, 0x50, 0x5A, 0x0B, 0x16, 0x21, 0x2C, 0x37, 0x42, 0xFA, 0x00, 0x80]
    src := 9#32, stride := 9#32, bpp := 3#32, size := 9#32, row := 1#32 }

/-- S4.2: previous row, then the scanline; BPP 1, SIZE 6, ROW 1. -/
def row1 : State :=
  { st with
    pix := cells [0x0A, 0xC8, 0x1E, 0x00, 0xFF, 0x80, 0x0C, 0x64, 0x23, 0xFF, 0x00, 0x7F]
    src := 6#32, stride := 6#32, bpp := 1#32, size := 6#32, row := 1#32 }

/-- ZL of S5.3, "abcXbcdeYabcde". -/
def zl : State :=
  buf [0x61, 0x62, 0x63, 0x58, 0x62, 0x63, 0x64, 0x65, 0x59, 0x61, 0x62, 0x63, 0x64, 0x65]

/-- ZL at I = 9, offset 0 in the bucket of "abc" and the offsets given in the bucket of "bcd". -/
def zlAt9 (bcd : List Int) : State :=
  { zl with
    lzQ := 5, lzI := 9
    ht := [(hash3 .mix 0x61#8 0x62#8 0x63#8, 0 :: List.replicate 9 (-1)),
      (hash3 .mix 0x62#8 0x63#8 0x64#8, bcd ++ List.replicate (10 - bcd.length) (-1))] }

/-- Something of the next state. -/
def got {α : Type} (f : State → α) : Result → Option α
  | .next t => some (f t)
  | .fault _ => none
  | .refused _ => none

/-- The next state, or the one given. -/
def after (s : State) : Result → State
  | .next t => t
  | .fault _ => s
  | .refused _ => s

/-- FB from address 0, COST and KIND. -/
def rowOf (t : State) : List Byte × Nat × Nat :=
  ((List.range t.size.toNat).map t.fbAt, t.cost.toNat, t.kind.toNat)

/-- OUT, ACC, CNT. -/
def bitsOf (t : State) : List Byte × Nat × Nat := (t.out, t.acc.toNat, t.cnt)

/-! ### Well-formedness -/

theorem test_wf_refuses_count_64 : WellFormed (.wrbits 0#32 64) = false := by decide
theorem test_wf_allows_count_63 : WellFormed (.wrbits 0#32 63) = true := by decide

/-! ### Decoding: words written out from R80 to R85 and S7, S8 -/

theorem test_decode_fltNone : decode 0x1000000000000000#64 = .instr .fltNone := by decide
theorem test_decode_fltSub : decode 0x1100000000000000#64 = .instr .fltSub := by decide
theorem test_decode_fltUp : decode 0x1200000000000000#64 = .instr .fltUp := by decide
theorem test_decode_fltAvg : decode 0x1300000000000000#64 = .instr .fltAvg := by decide
theorem test_decode_fltPaeth : decode 0x1400000000000000#64 = .instr .fltPaeth := by decide
theorem test_decode_fltAuto : decode 0x1800000000000000#64 = .instr .fltAuto := by decide
theorem test_decode_zcomp : decode 0x2000000000000000#64 = .instr .zcomp := by decide
theorem test_decode_wrbits : decode 0x30000008000000FF#64 = .instr (.wrbits 0xFF#32 8) := by decide
theorem test_decode_wrbits_33 : decode 0x3000002100000000#64 = .instr (.wrbits 0#32 33) := by decide
theorem test_decode_flush : decode 0x3100000100000000#64 = .instr (.flush true) := by decide
theorem test_decode_flush_0 : decode 0x3100000000000000#64 = .instr (.flush false) := by decide
theorem test_decode_wrbe32 : decode 0x32000000DEADBEEF#64 = .instr (.wrbe32 0xDEADBEEF#32) := by decide
theorem test_decode_bsclr : decode 0x3300000000000000#64 = .instr .bsclr := by decide
theorem test_decode_adinit : decode 0x4000000000000000#64 = .instr .adinit := by decide
theorem test_decode_adupd : decode 0x4100000000000000#64 = .instr .adupd := by decide
theorem test_decode_zero_word : decode 0#64 = .illegal (.unknownOpcode 0#8) := by decide
theorem test_decode_table_word : decodeTableWord 64 0x3200000000000001 = some (.wrbe32 1#32) := by decide
theorem test_encode_wrbits : encode (.wrbits 0x78#32 8) = 0x3000000800000078#64 := by decide
theorem test_encode_flush : encode (.flush true) = 0x3100000100000000#64 := by decide

/-! ### Unit RF: S4.2 to S4.4 -/

theorem test_fltNone : got rowOf (exec .fltNone row1) = some ([0x0C, 0x64, 0x23, 0xFF, 0x00, 0x7F], 275, 0) := by
  decide +kernel
theorem test_fltNone_cost_of_0x80 :
    got rowOf (exec .fltNone { st with pix := cells [0x80, 0x7F, 0x81, 0xFF, 0x01, 0x00], bpp := 1#32, size := 6#32 }) =
      some ([0x80, 0x7F, 0x81, 0xFF, 0x01, 0x00], 384, 0) := by decide +kernel
theorem test_fltSub : got rowOf (exec .fltSub row1) = some ([0x0C, 0x58, 0xBF, 0xDC, 0x01, 0x7F], 329, 1) := by
  decide +kernel
theorem test_fltSub_partial_pixel :
    got rowOf (exec .fltSub { st with pix := cells [1, 2, 3, 5], bpp := 3#32, size := 4#32 }) =
      some ([1, 2, 3, 4], 10, 1) := by decide +kernel
theorem test_fltUp : got rowOf (exec .fltUp row1) = some ([0x02, 0x9C, 0x05, 0xFF, 0x01, 0xFF], 110, 2) := by
  decide +kernel
theorem test_fltUp_row_0 :
    got rowOf (exec .fltUp { row1 with row := 0#32 }) = some ([0x0C, 0x64, 0x23, 0xFF, 0x00, 0x7F], 275, 2) := by
  decide +kernel
theorem test_fltAvg : got rowOf (exec .fltAvg row1) = some ([0x07, 0xFA, 0xE2, 0xEE, 0x01, 0x3F], 125, 3) := by
  decide +kernel
theorem test_fltAvg_nine_bit_sum :
    got rowOf (exec .fltAvg
      { st with pix := cells [255, 255, 255, 255], src := 2#32, stride := 2#32, bpp := 1#32, size := 2#32, row := 1#32 }) =
      some ([0x80, 0x00], 128, 3) := by decide +kernel
theorem test_fltPaeth : got rowOf (exec .fltPaeth row1) = some ([0x02, 0x9C, 0x05, 0xFF, 0x01, 0x7F], 236, 4) := by
  decide +kernel
theorem test_fltPaeth_bpp_3 :
    got rowOf (exec .fltPaeth row3) = some ([0x01, 0x02, 0x03, 0x04, 0x05, 0x06, 0xB4, 0xB0, 0x26], 215, 4) := by
  decide +kernel
theorem test_fltAuto_tie :
    got rowOf (exec .fltAuto { row3 with fsel := 0x1F#32 }) =
      some ([0x01, 0x02, 0x03, 0x04, 0x05, 0x06, 0xB4, 0xB0, 0x26], 215, 2) := by decide +kernel
theorem test_fltAuto_high_bits_ignored :
    got rowOf (exec .fltAuto { row3 with fsel := 0xFFFFFFE8#32 }) =
      some ([0x06, 0x0C, 0x12, 0x13, 0x13, 0x14, 0xC1, 0xBD, 0x32], 274, 3) := by decide +kernel
theorem test_paeth_samples :
    [paeth 10 20 30, paeth 10 20 15, paeth 3 3 1, paeth 0 200 0, paeth 255 0 255, paeth 0 128 255] =
      [10, 15, 3, 200, 0, 0] := by decide

/-! ### Unit BS: S2 -/

theorem test_wrbits_low_bits : got bitsOf (exec (.wrbits 0xFFFFFFFF#32 3) st) = some ([], 7, 3) := by decide +kernel
theorem test_wrbits_straddles :
    got bitsOf (exec (.wrbits 0xABCD1234#32 32) { st with acc := 7#39, cnt := 3 }) =
      some ([0xA7, 0x91, 0x68, 0x5E], 5, 3) := by decide +kernel
theorem test_flush_pads :
    got (fun t => (bitsOf t, t.fin)) (exec (.flush false) { st with out := [0x5D], acc := 0x15#39, cnt := 5 }) =
      some (([0x5D, 0x15], 0, 0), false) := by decide +kernel
theorem test_flush_aligned :
    got (fun t => (bitsOf t, t.fin)) (exec (.flush true) st) = some (([], 0, 0), true) := by decide +kernel
theorem test_wrbe32 : got bitsOf (exec (.wrbe32 0x11E60398#32) st) = some ([0x11, 0xE6, 0x03, 0x98], 0, 0) := by
  decide +kernel
theorem test_wrbe32_not_aligned :
    got (fun t => (bitsOf t, t.err)) (exec (.wrbe32 0xDEADBEEF#32) { st with acc := 1#39, cnt := 3 }) =
      some (([], 1, 3), 3#4) := by decide +kernel
theorem test_bsclr :
    got (fun t => (bitsOf t, t.fin)) (exec .bsclr { st with out := [0xAB, 0xCD], acc := 1#39, cnt := 1, fin := true }) =
      some (([], 0, 0), false) := by decide +kernel
theorem test_wrbits_out_full :
    got (fun t => (bitsOf t, t.err)) (exec (.wrbits 0#32 5)
      { State.init { p0 with outCap := some 2 } with out := [0x78, 0x5E], acc := 1#39, cnt := 3 }) =
      some (([0x78, 0x5E], 1, 3), 6#4) := by decide +kernel

/-! ### Unit AD: S3 -/

theorem test_adinit : got State.adler (exec .adinit { st with lo := 5#16, hi := 7#16 }) = some 0x00000001#32 := by
  decide +kernel
theorem test_adupd_wikipedia :
    got State.adler (exec .adupd (buf [0x57, 0x69, 0x6B, 0x69, 0x70, 0x65, 0x64, 0x69, 0x61])) = some 0x11E60398#32 := by
  decide +kernel
theorem test_adupd_continues :
    got State.adler (exec .adupd { buf [0x70, 0x65, 0x64, 0x69, 0x61] with lo := 405#16, hi := 986#16 }) =
      some 0x11E60398#32 := by decide +kernel

/-! ### Unit LZ: S5 -/

theorem test_zcomp_run :
    got (fun t => (t.out, t.fin)) (exec .zcomp (buf [0x61, 0x61, 0x61, 0x61, 0x61])) =
      some ([0x78, 0x5E, 0x4B, 0x04, 0x01, 0x00, 0x05, 0xB4, 0x01, 0xE6], true) := by decide +kernel
theorem test_zcomp_lazy :
    got State.out (exec .zcomp
      (buf [0x61, 0x62, 0x63, 0x58, 0x62, 0x63, 0x64, 0x65, 0x59, 0x61, 0x62, 0x63, 0x64, 0x65])) =
      some [0x78, 0x5E, 0x4B, 0x4C, 0x4A, 0x8E, 0x48, 0x4A, 0x4E, 0x49, 0x8D, 0x4C, 0x04, 0x91, 0x00, 0x27, 0xCD, 0x05,
        0x55] := by decide +kernel
theorem test_zcomp_out_full :
    got (fun t => (t.out, t.err)) (exec .zcomp (State.init { p0 with outCap := some 4 })) =
      some ([0x78, 0x5E, 0x03, 0x00], 6#4) := by decide +kernel
theorem test_zlibDecode : zlibDecode [0x78, 0x5E, 0x4B, 0x04, 0x01, 0x00, 0x05, 0xB4, 0x01, 0xE6] =
    some [0x61, 0x61, 0x61, 0x61, 0x61] := by decide +kernel
theorem test_hash_samples :
    [hash3 .mix 1 0 0, hash3 .mix 0 1 0, hash3 .mix 0 0 1, hash3 .mix 0x61 0x62 0x63, hash3 .mix 0xFF 0xFF 0xFF] =
      [155, 8255, 16239, 14211, 7102] := by decide
theorem test_eviction :
    insertSlot 5 [0, 4, 8, 12, 16, 20, 24, 28, 32, 36] 40 = [20, 24, 28, 32, 36, 40, -1, -1, -1, -1] := by decide
theorem test_codes :
    [0, 97, 143, 144, 255, 256, 257, 279, 280, 285].map (fun s => (bitRev (symCode s) (symLen s), symLen s)) =
      [(0x0C, 8), (0x89, 8), (0xFD, 8), (0x013, 9), (0x1FF, 9), (0x00, 7), (0x40, 7), (0x74, 7), (0x03, 8), (0xA3, 8)] := by
  decide
theorem test_length_bins : [3, 10, 11, 22, 34, 114, 226, 257, 258].map lenBin = [0, 7, 8, 12, 15, 22, 26, 27, 28] := by decide
theorem test_distance_bins :
    [1, 4, 6, 16, 256, 258, 4096, 24576, 32767].map distBin = [0, 3, 4, 7, 15, 16, 23, 28, 29] := by decide

/-! ### Host operations and faults: S7 -/

theorem test_illegal_word :
    got (fun t => (t.status, t.replies)) (step (st.withFetchWord 64 0x1500000000000000)) = some (1#32, [.done]) := by
  decide +kernel
theorem test_faulted_ignores :
    got (fun t => (t.err, t.out)) (step (State.withFetchWord { st with err := 3#4 } 64 0x30000008000000FF)) =
      some (3#4, []) := by decide +kernel
theorem test_first_step_after_reset :
    got (fun t => (t.hi, t.lo)) (step (State.reset.withFetchWord 64 0x4000000000000000)) = some (0#16, 1#16) := by
  decide +kernel

/-- R141 with QMAX 10: clamped from below at 5, from above at QMAX, QUALITY read as signed. -/
theorem test_clampQuality :
    [0xFFFFFFFF#32, 0#32, 4#32, 5#32, 7#32, 10#32, 11#32, 0x7FFFFFFF#32, 0x80000000#32].map
      (fun q => clampQuality { st with quality := q }) = [5, 5, 5, 5, 7, 10, 10, 10, 5] := by decide

/-- The items of ZL (S5.3): the match at 9 is discarded, the one at 10 taken. -/
theorem test_items_ZL :
    decidedItems 14 { zl with lzQ := 5, ht := [], lzI := 0 } =
      ([0x61, 0x62, 0x63, 0x58, 0x62, 0x63, 0x64, 0x65, 0x59, 0x61].map Item.lit) ++ [.copy 4 6] := by decide +kernel

/-- The items of Z9 (S5.2), "abcdeabcdf". -/
theorem test_items_Z9 :
    decidedItems 10 { buf [0x61, 0x62, 0x63, 0x64, 0x65, 0x61, 0x62, 0x63, 0x64, 0x66] with lzQ := 5, ht := [], lzI := 0 } =
      ([0x61, 0x62, 0x63, 0x64, 0x65].map Item.lit) ++ [.copy 4 5, .lit 0x66] := by decide +kernel

theorem test_regwr_quality :
    got (fun t => (t.quality, t.replies)) (step { st with hostOps := [.regwr 9 0xFFFFFFFF#32] }) =
      some (0xFFFFFFFF#32, [.done]) := by decide +kernel
theorem test_regwr_status_ignored :
    got (fun t => (t.status, t.replies)) (step { st with hostOps := [.regwr 0x10 0xFFFFFFFF#32] }) =
      some (0#32, [.done]) := by decide +kernel
theorem test_regrd_unimplemented :
    got State.replies (step { st with hostOps := [.regrd 0x0A] }) = some [.busError] := by decide +kernel
theorem test_outrd_empty : got State.replies (step { st with hostOps := [.outrd 0] }) = some [.busError] := by decide +kernel
theorem test_pixwr : got State.pix (step { st with hostOps := [.pixwr 3 9#8] }) = some [(3, 9#8)] := by decide +kernel
theorem test_reset_keeps_fb :
    got (fun t => (t.err, t.fbAt 0, t.out)) (step { buf [7] with err := 6#4, out := [1], hostOps := [.reset] }) =
      some (0#4, 7#8, []) := by decide +kernel
theorem test_zcomp_bad_cfg_before_alignment :
    got State.err (exec .zcomp { st with len := 0x80000000#32, cnt := 3 }) = some 4#4 := by decide +kernel

/-! ### Witnesses: for each obligation with hypotheses, a state and operands that meet them -/

/-- `st`, with pending bits. -/
def pending : State := { st with acc := 5#39, cnt := 3 }

/-- A block whose OUT is full. -/
def fullOut : State := { State.init { p0 with outCap := some 2 } with out := [0x78, 0x5E], acc := 1#39, cnt := 3 }

/-- A row of one byte on row 0, and with the longest previous row that fits. -/
def rowTop : State := { st with src := 63#32, stride := 63#32, bpp := 1#32, size := 1#32, dst := 63#32 }

theorem inv_st : st.Inv := by constructor <;> decide +kernel
theorem inv_pending : pending.Inv := by constructor <;> decide +kernel
theorem inv_fullOut : fullOut.Inv := by constructor <;> decide +kernel
theorem inv_row1 : row1.Inv := by constructor <;> decide +kernel
theorem inv_row3 : row3.Inv := by constructor <;> decide +kernel
theorem inv_rowTop : rowTop.Inv := by constructor <;> decide +kernel
theorem inv_buf : (buf [0x61, 0x62, 0x63, 0x61, 0x62, 0x63, 0x61]).Inv := by constructor <;> decide +kernel

theorem wit_DecodeOfEncodeIsTheCommand : WellFormed (.wrbits 0xFFFFFFFF#32 63) = true ∧ WellFormed (.wrbits 0#32 0) = true := by
  decide
theorem wit_EncodeOfDecodeIsTheWord : decode 0x3000003FFFFFFFFF#64 = .instr (.wrbits 0xFFFFFFFF#32 63) := by decide
theorem wit_WordSelectsOneCommandOrIsIllegal :
    decode 0xFF00000000000000#64 = .illegal (.unknownOpcode 0xFF#8) ∧ st.Ready := by decide
theorem wit_CmdRunsTheDecodedInstruction :
    let s : State := { st with hostOps := [.cmd 0x3300000000000000#64] }
    let f : State := { s with err := 3#4 }
    s.hostOps = .cmd 0x3300000000000000#64 :: [] ∧ s.err = 0#4 ∧ f.err ≠ 0#4 ∧
    decode 0x3300000000000000#64 = .instr .bsclr ∧ decode 0x3300000000000001#64 = .illegal (.fixedBitNonzero 0x33#8) := by
  decide
theorem wit_FetchWordRunsNext : State.reset.err = 0#4 ∧ decodeTableWord 64 0x3300000000000000 = some .bsclr := by decide
theorem wit_EveryStepAnswersANextState : st.hostOps = [] := by decide
theorem wit_RegrdReturnsTheRegister :
    ({ st with hostOps := [.regrd 0x13] } : State).hostOps = .regrd 0x13 :: [] ∧ readReg 0x13 st = some 1#32 := by decide
theorem wit_RegwrStoresOrIsIgnored :
    (0 ≤ 0x09 ∧ 9 ≤ 0x09) ∧ (0x10 ≤ 0x10 ∧ 0x10 ≤ 0x15) ∧ (0x10 ≤ 0x15 ∧ 0x15 ≤ 0x15) ∧ (0x0A ≤ 0x0A ∧ 0x0A ≤ 0x0F) ∧
    0x16 ≤ 0x16 ∧ ({ st with hostOps := [.regwr 9 1#32] } : State).hostOps = .regwr 9 1#32 :: [] := by decide
theorem wit_BusErrorsChangeNothing :
    (0x0A ≤ 0x0A ∧ 0x0A ≤ 0x0F) ∧ (0x0A ≤ 0x0F ∧ 0x0F ≤ 0x0F) ∧ 0x16 ≤ 0x16 ∧ st.params.pixSize ≤ 64 ∧
    st.params.fbSize ≤ 64 ∧ st.out.length ≤ 0 ∧
    ({ st with hostOps := [.pixrd 64] } : State).hostOps = .pixrd 64 :: [] := by decide
theorem wit_HostReadsAndWritesBytes :
    (0 < st.params.pixSize ∧ 63 < st.params.pixSize ∧ 0 < st.params.fbSize ∧ 63 < st.params.fbSize) ∧
    ({ st with hostOps := [.pixwr 63 1#8] } : State).Inv := ⟨by decide, by constructor <;> decide +kernel⟩
theorem wit_OutrdReturnsTheByte :
    ({ fullOut with hostOps := [.outrd 1] } : State).hostOps = .outrd 1 :: [] ∧ 1 < fullOut.out.length := by decide
theorem wit_ResetRestoresAllButMemories : ({ st with hostOps := [.reset] } : State).hostOps = .reset :: [] := by decide
theorem wit_ResetMeetsTheInvariant :
    p0.Legal ∧ (⟨1, 1, some 0, 5, .other, .unknown, .unknown⟩ : Params).Legal ∧
    (⟨2 ^ 32, 2 ^ 32, some (2 ^ 32 - 1), 5, .mix, .unknown, .unknown⟩ : Params).Legal := by decide
theorem wit_StepKeepsTheInvariant : pending.Inv ∧ step pending = .next pending := ⟨inv_pending, rfl⟩
theorem wit_FaultedBlockIgnoresCommands :
    ({ st with err := 1#4, hostOps := [.cmd 0#64] } : State).err ≠ 0#4 ∧
    ({ st with err := 1#4, hostOps := [.cmd 0#64] } : State).hostOps = .cmd 0#64 :: [] := by decide
theorem wit_ErrLatchesTheFirstFault :
    step st = .next st ∧ st.err = 0#4 ∧ step { st with err := 6#4 } = .next { st with err := 6#4 } ∧
    ({ st with err := 6#4 } : State).err ≠ 0#4 := ⟨rfl, rfl, rfl, by decide⟩
theorem wit_IllegalWordChangesOnlyErr :
    st.err = 0#4 ∧ ({ st with hostOps := [.cmd 0#64] } : State).hostOps = .cmd 0#64 :: [] ∧
    decode 0#64 = .illegal (.unknownOpcode 0#8) := by decide
theorem wit_BadCountChangesOnlyErr :
    st.err = 0#4 ∧ (33 ≤ 33 ∧ 33 ≤ 63) ∧ (33 ≤ 63 ∧ 63 ≤ 63) ∧
    got State.err (exec (.wrbits 0#32 33) st) = some 2#4 := by decide +kernel
theorem wit_NotAlignedChangesOnlyErr :
    pending.err = 0#4 ∧ pending.cnt ≠ 0 ∧ pending.len.toNat < 2 ^ 31 ∧
    got State.err (exec .zcomp pending) = some 3#4 := by decide +kernel
theorem wit_BadCfgChangesOnlyErr :
    st.err = 0#4 ∧ Instr.fltAuto ∈ filters ∧ st.bpp.toNat < 1 ∧
    8 < ({ st with bpp := 9#32, size := 16#32 } : State).bpp.toNat ∧
    ({ st with bpp := 3#32, size := 2#32 } : State).size.toNat < ({ st with bpp := 3#32 } : State).bpp.toNat ∧
    2 ^ 24 < ({ st with bpp := 1#32, size := 0x01000001#32 } : State).size.toNat ∧
    2 ^ 31 ≤ ({ st with len := 0x80000000#32 } : State).len.toNat ∧
    got State.err (exec .fltNone st) = some 4#4 ∧
    got State.err (exec .adupd { st with len := 0x80000000#32 }) = some 4#4 := by decide +kernel

/-- F19 of S7: `SRC - STRIDE < 0`. -/
def badPrev : State := { st with src := 4#32, stride := 9#32, bpp := 1#32, size := 4#32, row := 1#32 }

theorem wit_BadAddrChangesOnlyErr :
    badPrev.err = 0#4 ∧ Instr.fltUp ∈ filters ∧
    1 ≤ badPrev.bpp.toNat ∧ badPrev.bpp.toNat ≤ 8 ∧ badPrev.bpp.toNat ≤ badPrev.size.toNat ∧ badPrev.size.toNat ≤ 2 ^ 24 ∧
    badPrev.row ≠ 0#32 ∧ badPrev.src.toNat < badPrev.stride.toNat ∧
    (let s : State := { badPrev with src := 61#32 }; s.params.pixSize < s.src.toNat + s.size.toNat) ∧
    (let s : State := { badPrev with dst := 61#32 }; s.params.fbSize < s.dst.toNat + s.size.toNat) ∧
    (let s : State := { badPrev with src := 61#32, stride := 0#32 }
     (s.params.pixSize : Int) < (s.src.toNat : Int) - s.stride.toNat + s.size.toNat) ∧
    (let s : State := { st with data := 64#32, len := 1#32 }
     s.len.toNat < 2 ^ 31 ∧ s.params.fbSize < s.data.toNat + s.len.toNat ∧ s.cnt = 0) ∧
    got State.err (exec .fltUp badPrev) = some 5#4 := by decide +kernel
theorem wit_OutFullIsCheckedFirstExceptInZcomp :
    fullOut.err = 0#4 ∧ fullOut.params.outCap = some 2 ∧ 5 ≤ 32 ∧ 2 < fullOut.out.length + (fullOut.cnt + 5) / 8 ∧
    0 < fullOut.cnt ∧ fullOut.out.length = 2 ∧
    (let s : State := { State.init { p0 with outCap := some 3 } with out := [] }
     s.cnt = 0 ∧ 3 < s.out.length + 4 ∧ s.params.outCap = some 3) ∧
    got State.err (exec .zcomp (State.init { p0 with outCap := some 4 })) = some 6#4 ∧ st.params.outCap = none := by
  decide +kernel
theorem wit_WrbitsAppendsTheLowBits :
    pending.Inv ∧ pending.Ready ∧ 32 ≤ 32 ∧ pending.RoomFor ((pending.cnt + 32) / 8) ∧
    (let s : State := { State.init { p0 with outCap := some 4 } with acc := 0x7F#39, cnt := 7 }
     s.Inv ∧ s.RoomFor ((s.cnt + 32) / 8)) :=
  ⟨inv_pending, by decide, by decide, by decide, by constructor <;> decide +kernel, by decide⟩
theorem wit_WrbitsMayBeSplit :
    (st.Inv ∧ st.Ready ∧ st.cnt = 0 ∧ st.RoomFor 1) ∧
    (pending.Inv ∧ pending.Ready ∧ 16 ≤ 32 ∧ 32 ≤ 32 ∧ pending.RoomFor ((pending.cnt + 32) / 8)) ∧
    (pending.cnt ≤ 7 ∧ pending.acc.toNat < 2 ^ pending.cnt ∧ pending.streamBits = [true, false, true]) :=
  ⟨⟨inv_st, by decide, by decide, by decide⟩, ⟨inv_pending, by decide, by decide, by decide, by decide⟩, by decide +kernel⟩
theorem wit_FlushPadsToAByte :
    st.Ready ∧ st.cnt = 0 ∧ pending.Ready ∧ 0 < pending.cnt ∧ pending.params.outCap ≠ some pending.out.length ∧
    pending.Inv ∧ pending.RoomFor 1 ∧ got State.err (exec (.flush true) pending) = some 0#4 :=
  ⟨by decide, by decide, by decide, by decide, by decide, inv_pending, by decide, by decide +kernel⟩
theorem wit_Wrbe32AppendsBigEndian :
    (let s := State.init { p0 with outCap := some 4 }; s.Ready ∧ s.cnt = 0 ∧ s.RoomFor 4) := by decide
theorem wit_BsclrClearsTheStreamOnly : pending.Ready := by decide
theorem wit_AdinitSeedsTheChecksum : st.Ready := by decide
theorem wit_AdupdComputesTheReference :
    (let s := buf [0x61, 0x62, 0x63, 0x61, 0x62, 0x63, 0x61]; s.Inv ∧ s.Ready ∧ s.len.toNat < LEN_LIMIT ∧ s.bufInFb) :=
  ⟨inv_buf, by decide, by decide, by decide⟩
theorem wit_ChecksumDoesNotDependOnTheCut :
    (st.lo.toNat < BASE ∧ st.hi.toNat < BASE ∧ 1 ≤ [0xFF#8].length ∧ [0xFF#8].length ≤ NMAX) ∧
    (st.Inv ∧ st.Ready ∧ 4 + 5 < LEN_LIMIT ∧ st.data.toNat + 4 < 2 ^ 32 ∧ st.data.toNat + 4 + 5 ≤ st.params.fbSize) :=
  ⟨by decide, inv_st, by decide, by decide, by decide, by decide⟩
theorem wit_BlockSumsFit32Bits : (List.replicate 5552 0xFF#8).length ≤ NMAX ∧ 65520 < BASE := by
  rw [List.length_replicate]
  decide
theorem wit_AdinitAdupdGiveTheAdler32 :
    (let s := buf [0x61, 0x62, 0x63, 0x61, 0x62, 0x63, 0x61]; s.Inv ∧ s.Ready ∧ s.len.toNat < LEN_LIMIT ∧ s.bufInFb) :=
  ⟨inv_buf, by decide, by decide, by decide⟩
theorem wit_NeighbourBytesAreTheSpecs :
    row3.bpp.toNat ≤ 3 ∧ 2 < row3.bpp.toNat ∧ (row3.row ≠ 0#32 ∧ row3.prevRowInPix) ∧ rowTop.row = 0#32 := by decide
theorem wit_PaethPicksTheNearest :
    (let dist := fun q : Byte => ((3 : Int) + 3 - 1 - q.toNat).natAbs
     dist 3#8 = dist (paeth 3#8 3#8 1#8)) ∧
    (let dist := fun q : Byte => ((50 : Int) + 100 - 50 - q.toNat).natAbs
     dist 100#8 = dist (paeth 50#8 100#8 50#8) ∧ dist 50#8 ≠ dist (paeth 50#8 100#8 50#8)) := by decide
theorem wit_FixedFiltersWriteTheirFormula :
    (row3.Inv ∧ row3.Ready ∧ row3.RowOk) ∧ (rowTop.Inv ∧ rowTop.Ready ∧ rowTop.RowOk) :=
  ⟨⟨inv_row3, by decide, by decide⟩, ⟨inv_rowTop, by decide, by decide⟩⟩
theorem wit_AutoAppliesTheCheapestCandidate :
    (row3.Inv ∧ row3.Ready ∧ row3.RowOk) ∧ row3.fsel.extractLsb' 0 5 = 0#5 ∧
    ({ row3 with fsel := 0x1F#32 } : State).fsel.extractLsb' 0 5 ≠ 0#5 ∧
    ({ row3 with fsel := 0x1F#32 } : State).fsel.getLsbD (kindNum .paeth) = true :=
  ⟨⟨inv_row3, by decide, by decide⟩, by decide, by decide, by decide⟩
theorem wit_RowZeroUpIsNoneAndPaethIsSub : rowTop.Ready ∧ rowTop.RowOk ∧ rowTop.row = 0#32 := by decide
theorem wit_StrideIsIrrelevantOnRowZero : rowTop.row = 0#32 ∧ Instr.fltAvg ∈ filters := by decide
theorem wit_FilteringIsInvertible :
    (row1.Inv ∧ row1.Ready ∧ row1.RowOk) ∧ got State.kind (exec (fixedFilter .avg) row1) = some 3#3 ∧
    (∀ i, i < row1.size.toNat → rowB row1 i = rowB row1 i ∧ rowC row1 i = rowC row1 i) :=
  ⟨⟨inv_row1, by decide, by decide⟩, by decide +kernel, fun _ _ => ⟨rfl, rfl⟩⟩
theorem wit_FilterCommandsFrame :
    Instr.fltUp ∈ filters ∧ got State.kind (exec .fltUp row1) = some 2#3 ∧ 6 ≥ row1.dst.toNat + row1.size.toNat ∧
    0 < rowTop.dst.toNat := by decide +kernel
theorem wit_StreamAndChecksumCommandsFrame :
    got State.cnt (exec (.wrbits 1#32 1) st) = some 1 ∧ Instr.adupd ∉ filters := by decide +kernel
theorem wit_CommandsNeverWriteConfigurationOrPix : got State.fin (exec (.flush true) st) = some true := by decide +kernel
theorem wit_OutOnlyGrows :
    got State.out (step { st with hostOps := [.cmd 0x3200000000000001#64] }) = some [0, 0, 0, 1] := by decide +kernel
theorem wit_BytesChangeOnlyWhenWritten :
    ({ st with hostOps := [.fbwr 63 1#8] } : State).Inv ∧
    got (fun t => t.fbAt 63) (step { st with hostOps := [.fbwr 63 1#8] }) = some 1#8 ∧
    got (fun t => t.pixAt 0) (step { st with hostOps := [.pixwr 0 1#8] }) = some 1#8 ∧
    st.fbAt 63 = 0#8 ∧ st.pixAt 0 = 0#8 :=
  ⟨by constructor <;> decide +kernel, by decide +kernel, by decide +kernel, by decide +kernel, by decide +kernel⟩
theorem wit_BitRevReversesTheBits : 0b00110 < 2 ^ 5 ∧ 0 < 5 ∧ 4 < 5 := by decide
theorem wit_PutSymWritesTheCodeMsbFirst :
    285 ≤ 285 ∧ pending.Inv ∧ pending.Ready ∧ pending.RoomFor ((pending.cnt + symLen 285) / 8) :=
  ⟨by decide, inv_pending, by decide, by decide⟩
theorem wit_FixedCodeIsPrefixFree :
    (143 ≤ 143 ∧ (144 ≤ 144 ∧ 255 ≤ 255) ∧ (256 ≤ 256 ∧ 279 ≤ 279) ∧ (280 ≤ 280 ∧ 287 ≤ 287)) ∧
    codeBits (symCode 287) (symLen 287) <+: codeBits (symCode 287) (symLen 287) :=
  ⟨by decide, List.prefix_rfl⟩
theorem wit_BinsCoverLengthsAndDistances :
    (lenBase.length = 30 ∧ lenExtra.length = 29 ∧ distBase.length = 31 ∧ distExtra.length = 30) ∧
    (3 ≤ 3 ∧ 3 ≤ 258) ∧ (3 ≤ 258 ∧ 258 ≤ 258) ∧ (1 ≤ 1 ∧ 1 ≤ 32768) ∧ (1 ≤ 32768 ∧ 32768 ≤ 32768) := by decide
theorem wit_ZcompChecksInOrder :
    st.Ready ∧ 2 ^ 31 ≤ ({ st with len := 0x80000000#32 } : State).len.toNat ∧
    ({ st with len := 0x7FFFFFFF#32 } : State).len.toNat < 2 ^ 31 ∧ pending.Ready ∧ pending.cnt ≠ 0 ∧ st.cnt = 0 ∧
    (let s : State := { st with data := 64#32, len := 1#32 }; s.params.fbSize < s.data.toNat + s.len.toNat) := by decide
theorem wit_ZcompOfTheEmptyBuffer :
    (let s : State := { st with data := 64#32 }
     s.Inv ∧ s.Ready ∧ s.cnt = 0 ∧ s.len = 0#32 ∧ s.data.toNat ≤ s.params.fbSize ∧ s.RoomFor 8) :=
  ⟨by constructor <;> decide +kernel, by decide, by decide, by decide, by decide, by decide⟩
theorem wit_MatchLenIsTheLongestAgreement :
    (let s := buf [0x61, 0x62, 0x63, 0x61, 0x62, 0x63, 0x61]
     0 < 3 ∧ 3 ≤ s.len.toNat ∧ candLen s (0 : Nat) 3 = 4 ∧ 4 ≤ min (s.len.toNat - 3) 258) := by decide +kernel
theorem wit_ProbeFindsTheLongestMostRecent :
    (let s : State := { buf [0x61, 0x61, 0x61, 0x61, 0x61, 0x61, 0x61] with
       lzQ := 5, lzI := 2, ht := [(7, [0, 1, -1, -1, -1, -1, -1, -1, -1, -1])] }
     let cands := (bucketOf s.lzQ s.ht 7).takeWhile (· ≠ -1)
     cands.Pairwise (· < ·) ∧ (∀ p ∈ cands, 0 ≤ p ∧ p < (s.lzI : Int)) ∧ (probe 7 s).lzBestLoc = some 1) := by
  decide +kernel
/-- The lazy check both keeps and discards: the state of ZL (S5.3) at I = 9, and the same with the bucket of "bcd" empty. -/
theorem wit_ProbeFindsTheLongestMostRecent_lazy :
    (findMatch (zlAt9 [4])).lzBestLoc = none ∧ (findMatch (zlAt9 [])).lzBestLoc = some 0 ∧
    (let s := zlAt9 [4]
     (probe (hashAt s 9) s).lzBestLoc = some 0 ∧ (probe (hashAt s 9) s).lzBest = 3 ∧ candLen s (4 : Nat) 10 = 4) := by
  decide +kernel
theorem wit_InsertionKeepsTheBucketPacked :
    1 ≤ 5 ∧ [0, 4, 8, 12, 16, 20, 24, 28, 32, (36 : Int)].length ≤ 2 * 5 ∧
    (∀ p ∈ [0, 4, 8, 12, 16, 20, 24, 28, 32, (36 : Int)], 0 ≤ p) ∧ (0 : Int) ≤ 40 ∧
    ([] : List Int).length ≤ 2 * 1 ∧ [0, 4, 8, 12, 16, 20, 24, 28, 32, (36 : Int)].length = 2 * 5 := by decide

/-- What the whole-stream statements about ZCOMP ask of a state. -/
theorem wit_ZcompWritesOneZlibStream :
    (let s := buf [0x61, 0x62, 0x63, 0x61, 0x62, 0x63, 0x61]
     s.Inv ∧ s.Ready ∧ s.len.toNat < LEN_LIMIT ∧ s.cnt = 0 ∧ s.bufInFb ∧ s.params.outCap = none) :=
  ⟨inv_buf, by decide, by decide, by decide, by decide, by decide⟩
theorem wit_ZcompRoundTrip : st.Inv ∧ st.Ready ∧ st.len.toNat < LEN_LIMIT ∧ st.cnt = 0 ∧ st.bufInFb ∧ st.params.outCap = none :=
  ⟨inv_st, by decide, by decide, by decide, by decide, by decide⟩
theorem wit_ZcompSizeBound :
    (let s : State := { buf [0x61, 0x62, 0x63] with params := { p0 with outCap := some 11 } }
     s.Inv ∧ s.Ready ∧ s.len.toNat < LEN_LIMIT ∧ s.cnt = 0 ∧ s.bufInFb ∧ s.RoomFor (6 + (10 + 9 * s.len.toNat + 7) / 8)) :=
  ⟨by constructor <;> decide +kernel, by decide, by decide, by decide, by decide, by decide⟩
theorem wit_ZcompOutputDependsOnBufferAndQualityOnly :
    (let s := buf [0x61, 0x62, 0x63]
     let s' : State := { buf [0x39, 0x61, 0x62, 0x63] with data := 1#32, len := 3#32, out := [0xAA], lo := 9#16 }
     s.Inv ∧ s'.Inv ∧ (s.Ready ∧ s'.Ready ∧ s'.params.hash = s.params.hash ∧
     s'.params.qmax = s.params.qmax ∧ s'.buffer = s.buffer ∧ s'.quality = s.quality) ∧
     ∃ t t', exec .zcomp s = .next t ∧ exec .zcomp s' = .next t' ∧ t.err = 0#4 ∧ t'.err = 0#4) :=
  ⟨by constructor <;> decide +kernel, by constructor <;> decide +kernel, by decide +kernel,
    _, _, rfl, rfl, by decide +kernel, by decide +kernel⟩
theorem wit_ZcompOutFullKeepsWhatFits :
    (let s := State.init { p0 with outCap := some 4 }
     s.Inv ∧ s.Ready ∧ s.len.toNat < LEN_LIMIT ∧ s.cnt = 0 ∧ s.bufInFb ∧ s.params.outCap = some 4) ∧
    (let s := State.init { p0 with outCap := some 8 }
     s.Inv ∧ s.Ready ∧ s.len.toNat < LEN_LIMIT ∧ s.cnt = 0 ∧ s.bufInFb ∧ s.params.outCap = some 8) ∧
    got (fun u => u.out.length) (exec .zcomp st) = some 8 :=
  ⟨⟨by constructor <;> decide +kernel, by decide, by decide, by decide, by decide, by decide⟩,
    ⟨by constructor <;> decide +kernel, by decide, by decide, by decide, by decide, by decide⟩, by decide +kernel⟩

end Sys2Proof.Machine.Tests
end

section
/-! PROOFS. The state right after reset meets the block's invariant. -/

namespace Sys2Proof

/-- R6: OUT_CAP, infinite or any 32-bit number, is in its legal range. -/
theorem outCap_toNat_getD_lt (c : Option (BitVec 32)) : (c.map BitVec.toNat).getD 0 < 2 ^ 32 := by
  cases c with
  | none => exact Nat.two_pow_pos 32
  | some cap => exact cap.isLt

/-- R6: the model's own parameters are legal whatever values its uninterpreted constants have. -/
theorem Config.params_legal : Config.params.Legal :=
  ⟨Nat.le_add_left 1 _, Config.pixSizeLess1.isLt, Nat.le_add_left 1 _, Config.fbSizeLess1.isLt,
    outCap_toNat_getD_lt Config.outCap, Nat.le_add_left 5 _⟩

end Sys2Proof

namespace Sys2Proof.Machine

/-- R53: a legal block right after reset. PIX and FB list nothing, OUT is empty, and every bounded field is at a value
inside its range; so only the parameters need a hypothesis. -/
theorem State.init_inv {p : Params} (hp : p.Legal) : (State.init p).Inv where
  legal := hp
  pixWf := Memory.wf_nil
  pixWithin := List.forall_mem_nil _
  fbWf := Memory.wf_nil
  fbWithin := List.forall_mem_nil _
  outFits := fun cap _ => Nat.zero_le cap
  cntLe := Nat.zero_le 7
  errLe := Nat.zero_le 6
  kindLe := Nat.zero_le 4
  costLe := Nat.zero_le (2 ^ 31)
  accLt := fun _ => Nat.zero_lt_one
  loLt := fun _ => (by decide : 1 < BASE)
  hiLt := fun _ => (by decide : 0 < BASE)

/-- Settles O15: the reset state of any legal block, and the model's parameters as one instance of it. -/
theorem resetMeetsTheInvariant : Obligations.ResetMeetsTheInvariant :=
  ⟨fun _ hp => State.init_inv hp, State.init_inv Config.params_legal⟩

end Sys2Proof.Machine
end

section
/-! PROOFS. What one command and one step can do, said once: the statements about ERR, OUT and the byte memories, and the
step lemma of the invariant, are case analyses on it. -/

namespace Sys2Proof.Machine

/-! ### What a command can do -/

/-- Only the state of units BS, AD and LZ and the counter of free values differ, and OUT has only grown. -/
def UnitFrame (s t : State) : Prop :=
  t = { s with
    out := t.out, acc := t.acc, cnt := t.cnt, fin := t.fin, lo := t.lo, hi := t.hi, ht := t.ht, lzI := t.lzI,
    lzQ := t.lzQ, lzBest := t.lzBest, lzBestLoc := t.lzBestLoc, freeCtr := t.freeCtr } ∧ s.out <+: t.out

variable {s t : State} {i : Instr}

theorem UnitFrame.refl (s : State) : UnitFrame s s := ⟨rfl, List.prefix_rfl⟩

theorem LzFrame.unit (h : LzFrame s t) : UnitFrame s t := ⟨by rw [h.1], h.2⟩

theorem StreamFrame.unit (h : StreamFrame s t) : UnitFrame s t := h.lz.unit

theorem LzFrame.forgetTable (h : LzFrame s t) : UnitFrame s (forgetTable t) :=
  ⟨by rw [forgetTable_frame, h.1], by simpa using h.2⟩

theorem LzFrame.abandon (h : LzFrame s t) : UnitFrame s (abandon t) :=
  ⟨by rw [abandon_frame, h.1], by simpa using h.2⟩

/-- What a command does to a block that is not FAULTED: it completes in its unit, it takes a fault (ZCOMP on the way), it
writes a row of FB, or it is BSCLR. -/
inductive CommandEffect (s : State) : Instr → State → Prop
  | done {i : Instr} {t : State} (h : UnitFrame s t) : CommandEffect s i t
  | fault {i : Instr} {t : State} (f : CmdFault) (h : UnitFrame s t) : CommandEffect s i (raise f t)
  | row {i : Instr} (k : FilterKind) (hi : i ∈ filters) (h : s.RowOk) : CommandEffect s i (applyKind k s)
  | clear : CommandEffect s .bsclr (bsclr s)

/-- A fault that a check raises before any effect. -/
theorem CommandEffect.check (f : CmdFault) : CommandEffect s i (raise f s) := .fault f (.refl s)

theorem filterRow_effect (hi : i ∈ filters) (sel : State → FilterKind) : CommandEffect s i (filterRow sel s) := by
  obtain ⟨f, -, h⟩ | ⟨hok, h⟩ := filterRow_cases (s := s) sel <;> rw [h]
  · exact .check f
  · exact .row _ hi hok

/-- An operation that appends completes, or raises OUT_FULL where it found no room. -/
theorem Appends.effect {x : Appended} (h : Appends s x) : CommandEffect s i (settle x) := by
  cases x with
  | ok t => exact .done h.1.unit
  | error t => exact .fault .outFull h.1.unit

theorem wrbits_effect (v : Word) (count : Nat) : CommandEffect s i (wrbits v count s) := by
  unfold wrbits
  split
  · exact .check .badCount
  · split
    · exact .check .outFull
    · exact (writeBits_appends v count).effect

theorem flush_effect (final : Bool) : CommandEffect s i (flush final s) := by
  unfold flush
  split
  · exact .check .outFull
  · exact (flushBits_appends final).effect

theorem wrbe32_effect (v : Word) : CommandEffect s i (wrbe32 v s) := by
  unfold wrbe32
  split
  · exact .check .notAligned
  · split
    · exact .check .outFull
    · exact (writeBe32_appends v).effect

theorem adupd_effect : CommandEffect s i (adupd s) := by
  obtain ⟨-, h⟩ | ⟨-, -, h⟩ | ⟨-, -, h⟩ := adupd_cases (s := s) <;> rw [h]
  · exact .check .badCfg
  · exact .check .badAddr
  · exact .done (SumFrame.lz checksumRun_frame).unit

theorem zcomp_effect : CommandEffect s i (zcomp s) := by
  obtain ⟨f, -, h⟩ | ⟨-, t, -, ht, h⟩ | ⟨-, t, -, ht, -, h⟩ := zcomp_cases (s := s) <;> rw [h]
  · exact .check f
  · exact .done ht.forgetTable
  · exact .fault .outFull ht.abandon

/-- The body of a command that runs. -/
theorem command_next {body : State → State} (hr : s.Ready) (h : command body s = .next t) : t = body s := by
  simpa [command_ready hr] using h.symm

/-- What a command does to a block that is not FAULTED. -/
theorem exec_effect (hr : s.Ready) (h : exec i s = .next t) : CommandEffect s i t := by
  cases i with
  | fltNone => exact command_next hr h ▸ filterRow_effect (by decide) _
  | fltSub => exact command_next hr h ▸ filterRow_effect (by decide) _
  | fltUp => exact command_next hr h ▸ filterRow_effect (by decide) _
  | fltAvg => exact command_next hr h ▸ filterRow_effect (by decide) _
  | fltPaeth => exact command_next hr h ▸ filterRow_effect (by decide) _
  | fltAuto => exact command_next hr h ▸ filterRow_effect (by decide) _
  | zcomp => exact command_next hr h ▸ zcomp_effect
  | wrbits v count => exact command_next hr h ▸ wrbits_effect v count
  | flush final => exact command_next hr h ▸ flush_effect final
  | wrbe32 v => exact command_next hr h ▸ wrbe32_effect v
  | bsclr => exact command_next hr h ▸ .clear
  | adinit => exact command_next hr h ▸ .done (SumFrame.lz checksumInit_frame).unit
  | adupd => exact command_next hr h ▸ adupd_effect

/-- A FAULTED block ignores every command (R230). -/
theorem exec_faulted (he : s.err ≠ 0#4) (h : exec i s = .next t) : t = s := by
  obtain ⟨u, hu, hk⟩ := exec_next i s
  rw [hu] at h
  cases h
  exact hk he

/-- Configuration registers, parameters, PIX and the host's two lists are the same. -/
def OutsideFrame (s t : State) : Prop :=
  t = { s with
    err := t.err, cost := t.cost, kind := t.kind, out := t.out, acc := t.acc, cnt := t.cnt, fin := t.fin, lo := t.lo,
    hi := t.hi, ht := t.ht, lzI := t.lzI, lzQ := t.lzQ, lzBest := t.lzBest, lzBestLoc := t.lzBestLoc, fb := t.fb,
    freeCtr := t.freeCtr }

theorem UnitFrame.outside (h : UnitFrame s t) : OutsideFrame s t := by
  unfold OutsideFrame
  rw [h.1]

/-- A fault writes ERR, which is on the block's own side. -/
theorem OutsideFrame.raise {f : CmdFault} (h : OutsideFrame s t) : OutsideFrame s (raise f t) := by
  unfold OutsideFrame at h ⊢
  rw [raise_frame, h]
  rfl

/-- No command writes what the host alone writes (R23, R61), nor what nobody writes (R52). -/
theorem CommandEffect.outside (h : CommandEffect s i t) : OutsideFrame s t := by
  cases h with
  | done h => exact h.outside
  | fault f h => exact h.outside.raise
  | row k => rfl
  | clear => rfl

/-! ### What a step can do -/

/-- Only configuration registers and the host's two lists differ. -/
def ConfigFrame (s t : State) : Prop :=
  t = { s with
    src := t.src, stride := t.stride, bpp := t.bpp, size := t.size, row := t.row, dst := t.dst, fsel := t.fsel,
    data := t.data, len := t.len, quality := t.quality, hostOps := t.hostOps, replies := t.replies }

theorem ConfigFrame.trans {u : State} (h : ConfigFrame s t) (h' : ConfigFrame t u) : ConfigFrame s u := by
  unfold ConfigFrame at h h' ⊢
  rw [h', h]

theorem ConfigFrame.setHostOps (ops : List HostOp) : ConfigFrame s (s.setHostOps ops) := rfl

theorem ConfigFrame.answer (r : Reply) : ConfigFrame s (answer r s) := rfl

/-- REGWR writes at most a configuration register (R203). -/
theorem writeReg_frame {r : Nat} {v : Word} (h : writeReg r v s = some t) : ConfigFrame s t := by
  unfold writeReg at h
  split at h <;> cases h <;> rfl

/-- `s` where the host's next operation has been taken off its list, `ops` are left, and the host got `r` back. -/
def State.replied (s : State) (ops : List HostOp) (r : Reply) : State := answer r (s.setHostOps ops)

variable {ops : List HostOp}

theorem State.replied_frame {r : Reply} : ConfigFrame s (s.replied ops r) :=
  (ConfigFrame.setHostOps ops).trans (.answer r)

/-- What a step does to `s` beyond taking the next operation off the list and replying to it. -/
inductive StepEffect (s : State) : State → Prop
  /-- idle, a read, a bus error, REGWR, or CMD of a FAULTED block -/
  | config {t : State} (h : ConfigFrame s t) : StepEffect s t
  /-- CMD of an illegal word -/
  | illegal {w : CmdWord} {ops : List HostOp} (hs : s.hostOps = .cmd w :: ops) (hr : s.Ready) :
    StepEffect s ((s.replied ops .done).setErr (faultCode .illegalCmd))
  /-- CMD of a legal word -/
  | command {w : CmdWord} {ops : List HostOp} {i : Instr} {t : State} (hs : s.hostOps = .cmd w :: ops)
    (hr : (s.replied ops .done).Ready) (hw : decode w = .instr i)
    (h : exec i (s.replied ops .done) = .next t) : StepEffect s t
  /-- PIXWR -/
  | pixwr {a : Nat} {b : Byte} {ops : List HostOp} (hs : s.hostOps = .pixwr a b :: ops) (ha : a < s.params.pixSize) :
    StepEffect s ((s.replied ops .done).pixPut a b)
  /-- FBWR -/
  | fbwr {a : Nat} {b : Byte} {ops : List HostOp} (hs : s.hostOps = .fbwr a b :: ops) (ha : a < s.params.fbSize) :
    StepEffect s ((s.replied ops .done).fbPut a b)
  /-- RESET -/
  | reset {ops : List HostOp} (hs : s.hostOps = .reset :: ops) : StepEffect s (resetBlock (s.replied ops .done))

/-- A reply and nothing else. -/
theorem StepEffect.reply (r : Reply) : StepEffect s (s.replied ops r) := .config State.replied_frame

/-- CMD of any word (R201). -/
theorem cmd_effect {w : CmdWord} (hs : s.hostOps = .cmd w :: ops) (h : runCmd w (s.replied ops .done) = .next t) :
    StepEffect s t := by
  by_cases he : s.err = 0#4
  · cases hw : decode w with
    | illegal why =>
      rw [runCmd_illegal (s := s.replied ops .done) he hw] at h
      cases h
      exact .illegal hs he
    | instr i => exact .command hs he hw ((runCmd_instr (s := s.replied ops .done) he hw).symm.trans h)
  · rw [runCmd_faulted (s := s.replied ops .done) he] at h
    cases h
    exact .reply .done

/-- REGWR of any register number (R203, R204). -/
theorem regwr_effect {r : Nat} {v : Word} (h : perform (.regwr r v) (s.setHostOps ops) = .next t) : StepEffect s t := by
  simp only [perform] at h
  split at h <;> cases h
  · next u hu => exact .config (((ConfigFrame.setHostOps ops).trans (writeReg_frame hu)).trans (.answer .done))
  · exact .reply .busError

/-- What a step can do (R200 to R208). -/
theorem step_effect (h : step s = .next t) : StepEffect s t := by
  cases hs : s.hostOps with
  | nil =>
    rw [step_idle hs] at h
    cases h
    exact .config rfl
  | cons op ops =>
    rw [step_op hs] at h
    cases op with
    | cmd w => exact cmd_effect hs h
    | regrd r =>
      simp only [perform] at h
      split at h <;> cases h <;> exact .reply _
    | regwr r v => exact regwr_effect h
    | pixwr a b =>
      simp only [perform] at h
      split at h <;> cases h
      · exact .pixwr hs ‹_›
      · exact .reply _
    | pixrd a =>
      simp only [perform] at h
      split at h <;> cases h <;> exact .reply _
    | fbwr a b =>
      simp only [perform] at h
      split at h <;> cases h
      · exact .fbwr hs ‹_›
      · exact .reply _
    | fbrd a =>
      simp only [perform] at h
      split at h <;> cases h <;> exact .reply _
    | outrd k =>
      simp only [perform] at h
      split at h <;> cases h <;> exact .reply _
    | reset =>
      cases h
      exact .reset hs

end Sys2Proof.Machine
end

section
/-! PROOFS. The values at reset, what commands never write, ERR, OUT, and the bytes of PIX and FB. -/

namespace Sys2Proof.Machine

variable {s t : State} {i : Instr}

/-! ### Reset -/

/-- STATUS, ADLER, OUTLEN and BITCNT right after reset (R34, R37 to R39 with R53). -/
theorem init_views (p : Params) :
    (State.init p).status = 0#32 ∧ (State.init p).adler = 1#32 ∧ (State.init p).outlen = 0#32 ∧
    (State.init p).bitcnt = 0#32 :=
  ⟨(by decide : 0#27 ++ BitVec.ofBool false ++ 0#4 = 0#32), (by decide : 0#16 ++ 1#16 = 1#32), rfl, rfl⟩

/-- Settles O13: `State.init` writes each stored value out; what the registers read are its views. -/
theorem resetValuesAreTheSpecs : Obligations.ResetValuesAreTheSpecs := by
  intro p
  obtain ⟨hstatus, hadler, houtlen, hbitcnt⟩ := init_views p
  exact ⟨rfl, rfl, rfl, rfl, rfl, rfl, rfl, rfl, rfl, rfl, rfl, rfl, rfl, rfl, rfl, rfl, rfl, rfl, rfl,
    congrArg some hstatus, congrArg some hadler, congrArg some houtlen, congrArg some hbitcnt, rfl⟩

/-! ### What commands never write -/

/-- Settles O44: a FAULTED block ignores the command, and every effect of a command keeps the outside of the block. -/
theorem commandsNeverWriteConfigurationOrPix : Obligations.CommandsNeverWriteConfigurationOrPix := by
  intro i s t h
  have hf : OutsideFrame s t := by
    by_cases hr : s.Ready
    · exact (exec_effect hr h).outside
    · exact exec_faulted hr h ▸ rfl
  unfold OutsideFrame at hf
  rw [hf]
  exact ⟨rfl, rfl, rfl, rfl, rfl, rfl, rfl, rfl, rfl, rfl, rfl, rfl, rfl, rfl⟩

/-! ### ERR -/

/-- A fault that is taken when there is none leaves its code (R229). -/
theorem raise_err (f : CmdFault) (hr : s.Ready) : (raise f s).err = faultCode f := by rw [raise_ready hr, State.setErr_err]

/-- A command of a block that is not FAULTED leaves ERR 0 or raises one fault (R229). -/
theorem CommandEffect.err (hr : s.Ready) (h : CommandEffect s i t) : t.err = 0#4 ∨ ∃ f, t.err = faultCode f := by
  cases h with
  | done h => exact .inl (by rw [h.1]; exact hr)
  | fault f h => exact .inr ⟨f, raise_err f (by rw [h.1]; exact hr)⟩
  | row k => exact .inl hr
  | clear => exact .inl hr

/-- What a step does to ERR: nothing, a command fault in a block that is not FAULTED, or RESET's 0 (R42). -/
theorem StepEffect.err (h : StepEffect s t) :
    t.err = s.err ∨ (s.Ready ∧ ∃ w ops f, s.hostOps = .cmd w :: ops ∧ t.err = faultCode f) ∨
    (t.err = 0#4 ∧ ∃ ops, s.hostOps = .reset :: ops) := by
  cases h with
  | config h => exact .inl (by rw [h])
  | illegal hs hr => exact .inr (.inl ⟨hr, _, _, .illegalCmd, hs, rfl⟩)
  | command hs hr hw h =>
    obtain h0 | ⟨f, hf⟩ := (exec_effect hr h).err hr
    · exact .inl (h0.trans (Eq.symm hr))
    · exact .inr (.inl ⟨hr, _, _, f, hs, hf⟩)
  | pixwr => exact .inl rfl
  | fbwr => exact .inl rfl
  | reset hs => exact .inr (.inr ⟨rfl, _, hs⟩)

/-- `STATUS[3:0]` is ERR (R34). -/
theorem status_low (s : State) : s.status.setWidth 4 = s.err := by
  unfold State.status
  rw [BitVec.setWidth_append]
  simp

/-- Settles O18: by the three things a step can do to ERR. -/
theorem errLatchesTheFirstFault : Obligations.ErrLatchesTheFirstFault := by
  refine ⟨fun s t h => ⟨fun he => ?_, fun h0 => ?_⟩, fun s => ⟨s.status, rfl, status_low s⟩, fun _ => rfl⟩
  · obtain hk | ⟨hr, -⟩ | hreset := (step_effect h).err
    · exact .inl hk
    · exact absurd hr he
    · exact .inr hreset
  · obtain hk | ⟨-, hfault⟩ | ⟨hz, -⟩ := (step_effect h).err
    · exact .inl (hk.trans h0)
    · exact .inr hfault
    · exact .inl hz

/-! ### OUT -/

/-- A command appends to OUT, or it is BSCLR and empties it (R44, R63, R187). -/
theorem CommandEffect.out (h : CommandEffect s i t) : s.out <+: t.out ∨ (t.out = [] ∧ i = .bsclr) := by
  cases h with
  | done h => exact .inl h.2
  | fault f h => exact .inl (by rw [raise_frame]; exact h.2)
  | row k => exact .inl List.prefix_rfl
  | clear => exact .inr ⟨rfl, rfl⟩

/-- Settles O45: by what a step can do. -/
theorem outOnlyGrows : Obligations.OutOnlyGrows := by
  intro s t h
  cases step_effect h with
  | config h => exact .inl (by rw [h])
  | illegal => exact .inl List.prefix_rfl
  | command hs hr hw h =>
    obtain hgrow | ⟨hempty, rfl⟩ := (exec_effect hr h).out
    · exact .inl hgrow
    · exact .inr ⟨hempty, _, .inr ⟨_, hs, hw⟩⟩
  | pixwr => exact .inl List.prefix_rfl
  | fbwr => exact .inl List.prefix_rfl
  | reset hs => exact .inr ⟨rfl, _, .inl hs⟩

/-! ### PIX and FB -/

/-- A byte depends on its memory and on the parameters, which say what unwritten bytes hold (R78). -/
theorem pixAt_congr (hp : t.params = s.params) (hm : t.pix = s.pix) (a : Nat) : t.pixAt a = s.pixAt a := by
  simp only [State.pixAt, State.pixBg, hp, hm]

theorem fbAt_congr (hp : t.params = s.params) (hm : t.fb = s.fb) (a : Nat) : t.fbAt a = s.fbAt a := by
  simp only [State.fbAt, State.fbBg, hp, hm]

/-- No command writes PIX (R61). -/
theorem OutsideFrame.pixAt (h : OutsideFrame s t) (a : Nat) : t.pixAt a = s.pixAt a :=
  pixAt_congr (by rw [h]) (by rw [h]) a

/-- A command changes a byte of FB only if it is an FLT command whose range holds the byte (R62, R133). -/
theorem CommandEffect.fbAt (h : CommandEffect s i t) (a : Nat) :
    t.fbAt a = s.fbAt a ∨ (i ∈ filters ∧ s.dst.toNat ≤ a ∧ a < s.dst.toNat + s.size.toNat) := by
  cases h with
  | done h => exact .inl (fbAt_congr (by rw [h.1]) (by rw [h.1]) a)
  | fault f h => exact .inl (fbAt_congr (by rw [raise_frame, h.1]; rfl) (by rw [raise_frame, h.1]; rfl) a)
  | row k hi =>
    by_cases ha : s.dst.toNat ≤ a ∧ a < s.dst.toNat + s.size.toNat
    · exact .inr ⟨hi, ha⟩
    · exact .inl (applyKind_fbAt_outside (by omega))
  | clear => exact .inl rfl

/-- What a step does to a byte of PIX (R61): it keeps it, or PIXWR wrote it. -/
theorem StepEffect.pixAt (hi : s.Inv) (h : StepEffect s t) (a : Nat) :
    t.pixAt a = s.pixAt a ∨ ∃ b ops, s.hostOps = .pixwr a b :: ops ∧ a < s.params.pixSize ∧ t.pixAt a = b := by
  cases h with
  | config h => exact .inl (pixAt_congr (by rw [h]) (by rw [h]) a)
  | illegal => exact .inl rfl
  | command hs hr hw h => exact .inl ((exec_effect hr h).outside.pixAt a)
  | @pixwr a' b ops hs ha =>
    by_cases h : a = a'
    · subst h
      exact .inr ⟨b, ops, hs, ha, Memory.read_write_same hi.pixWf⟩
    · exact .inl (Memory.read_write_other h)
  | fbwr => exact .inl rfl
  | reset => exact .inl rfl

/-- What a step does to a byte of FB (R62): it keeps it, FBWR wrote it, or an FLT command's range holds it. -/
theorem StepEffect.fbAt (hi : s.Inv) (h : StepEffect s t) (a : Nat) :
    t.fbAt a = s.fbAt a ∨ (∃ b ops, s.hostOps = .fbwr a b :: ops ∧ a < s.params.fbSize ∧ t.fbAt a = b) ∨
    ∃ w ops i, s.hostOps = .cmd w :: ops ∧ decode w = .instr i ∧ i ∈ filters ∧
      s.dst.toNat ≤ a ∧ a < s.dst.toNat + s.size.toNat := by
  cases h with
  | config h => exact .inl (fbAt_congr (by rw [h]) (by rw [h]) a)
  | illegal => exact .inl rfl
  | command hs hr hw h =>
    obtain hkeep | hrow := (exec_effect hr h).fbAt a
    · exact .inl hkeep
    · exact .inr (.inr ⟨_, _, _, hs, hw, hrow⟩)
  | pixwr => exact .inl rfl
  | @fbwr a' b ops hs ha =>
    by_cases h : a = a'
    · subst h
      exact .inr (.inl ⟨b, ops, hs, ha, Memory.read_write_same hi.fbWf⟩)
    · exact .inl (Memory.read_write_other h)
  | reset => exact .inl rfl

/-- Settles O46: by what a step can do to a byte of each memory. -/
theorem bytesChangeOnlyWhenWritten : Obligations.BytesChangeOnlyWhenWritten := fun _ _ hi h a =>
  ⟨((step_effect h).pixAt hi a).resolve_left, ((step_effect h).fbAt hi a).resolve_left⟩

end Sys2Proof.Machine
end

section
/-! PROOFS. Appending operations keep the output stream in range: OUT within OUT_CAP, CNT 0 to 7 and ACC below 2^CNT. Then
ZCOMP, part by part, up to its trailer, which leaves LO and HI reduced as well. -/

namespace Sys2Proof.Machine

/-- Where the operation completes, `P` holds. -/
def Ends (P : State → Prop) (x : Appended) : Prop := ∀ t, x = .ok t → P t

variable {s t : State} {P Q : State → Prop}

theorem Ends.ok (h : P t) : Ends P (.ok t) := by
  rintro u ⟨⟩
  exact h

/-- Operations one after the other: what holds between them is enough for the second. -/
theorem Ends.bind {x : Appended} {g : State → Appended} (hx : Ends P x) (hg : ∀ u, P u → Ends Q (g u)) :
    Ends Q (x.bind g) := by
  cases x with
  | error u => exact nofun
  | ok u => exact hg u (hx u rfl)

/-! ### The operations that append, as one operation after another -/

theorem outAppendList_cons (b : Byte) (bs : List Byte) :
    outAppendList (b :: bs) s = (outAppend b s).bind (outAppendList bs) := by
  simp only [outAppendList]
  cases outAppend b s <;> rfl

theorem drain_succ (fuel : Nat) : drain (fuel + 1) s =
    if 8 ≤ s.cnt then
      (outAppend (s.acc.setWidth 8) s).bind fun t => drain fuel (t.setBits (t.acc >>> 8) (t.cnt - 8))
    else .ok s := by
  simp only [drain]
  cases outAppend (s.acc.setWidth 8) s <;> rfl

theorem flushBits_eq (f : Bool) : flushBits f s =
    if 0 < s.cnt then (outAppend (s.acc.setWidth 8) s).bind fun t => .ok (markFinal f (t.setBits 0#39 0))
    else .ok (markFinal f s) := by
  unfold flushBits
  cases outAppend (s.acc.setWidth 8) s <;> rfl

/-! ### OUT stays within OUT_CAP -/

/-- OUT is within OUT_CAP (R63). -/
def Fits (s : State) : Prop := s.RoomFor 0

theorem outAppend_ends_fits {b : Byte} (h : Fits s) : Ends Fits (outAppend b s) := by
  intro t ht
  have := outAppend_fits (b := b) h
  rwa [ht] at this

theorem outAppendList_ends_fits {bs : List Byte} (h : Fits s) : Ends Fits (outAppendList bs s) := by
  induction bs generalizing s with
  | nil => exact .ok h
  | cons b bs ih =>
    rw [outAppendList_cons]
    exact (outAppend_ends_fits h).bind fun _ hu => ih hu

theorem drain_ends_fits (fuel : Nat) (h : Fits s) : Ends Fits (drain fuel s) := by
  induction fuel generalizing s with
  | zero => exact .ok h
  | succ fuel ih =>
    rw [drain_succ]
    split
    · exact (outAppend_ends_fits h).bind fun _ hu => ih hu
    · exact .ok h

theorem writeBits_ends_fits {v : Word} {c : Nat} (h : Fits s) : Ends Fits (writeBits v c s) :=
  drain_ends_fits (s := s.setBits _ _) _ h

theorem markFinal_fits {f : Bool} (h : Fits s) : Fits (markFinal f s) := by cases f <;> exact h

theorem flushBits_ends_fits {f : Bool} (h : Fits s) : Ends Fits (flushBits f s) := by
  rw [flushBits_eq]
  split
  · exact (outAppend_ends_fits h).bind fun _ hu => .ok (markFinal_fits hu)
  · exact .ok (markFinal_fits h)

/-! ### The output stream in range -/

/-- OUT is within OUT_CAP, CNT is 0 to 7 and ACC is below 2^CNT (R40, R63). -/
def StreamInRange (s : State) : Prop := Fits s ∧ BitsReduced s

/-- LO and HI are reduced (R43). -/
def SumsReduced (s : State) : Prop := s.lo.toNat < BASE ∧ s.hi.toNat < BASE

theorem writeBits_inRange (v : Word) (c : Nat) (h : StreamInRange s) : Ends StreamInRange (writeBits v c s) :=
  fun t ht => ⟨writeBits_ends_fits h.1 t ht, writeBits_reduced h.2 ht⟩

theorem flushBits_inRange (f : Bool) (h : StreamInRange s) : Ends StreamInRange (flushBits f s) :=
  fun t ht => ⟨flushBits_ends_fits h.1 t ht, (flushBits_reduced h.2 ht).1⟩

/-- Bytes that were appended are at the end of OUT, and nothing else has changed (R63). -/
theorem outAppendList_ends {bs : List Byte} : Ends (· = s.setOut (s.out ++ bs)) (outAppendList bs s) := by
  induction bs generalizing s with
  | nil => exact .ok (by simp [State.setOut])
  | cons b bs ih =>
    have hb : Ends (· = s.setOut (s.out ++ [b])) (outAppend b s) := by
      unfold outAppend
      split
      · exact nofun
      · exact .ok rfl
    rw [outAppendList_cons]
    refine hb.bind ?_
    rintro _ rfl
    simpa [State.setOut] using ih (s := s.setOut (s.out ++ [b]))

/-- `WriteBe32` neither reads nor writes ACC and CNT (R188). -/
theorem writeBe32_inRange (v : Word) (h : StreamInRange s) :
    Ends (fun t => StreamInRange t ∧ t.lo = s.lo ∧ t.hi = s.hi) (writeBe32 v s) := by
  intro t ht
  have hfits := outAppendList_ends_fits h.1 t ht
  cases outAppendList_ends t ht
  exact ⟨⟨hfits, h.2⟩, rfl, rfl⟩

/-! ### ZCOMP, part by part -/

theorem putSym_inRange (sym : Nat) (h : StreamInRange s) : Ends StreamInRange (putSym sym s) := writeBits_inRange _ _ h

theorem putExtra_inRange (v n : Nat) (h : StreamInRange s) : Ends StreamInRange (putExtra v n s) := by
  unfold putExtra
  split
  · exact writeBits_inRange _ _ h
  · exact .ok h

theorem putMatch_inRange (L D : Nat) (h : StreamInRange s) : Ends StreamInRange (putMatch L D s) :=
  ((putSym_inRange _ h).bind fun _ h => putExtra_inRange _ _ h).bind fun _ h =>
    (writeBits_inRange _ _ h).bind fun _ h => putExtra_inRange _ _ h

/-- The match finder leaves the output stream alone (R162). -/
theorem findMatch_inRange (h : StreamInRange s) : StreamInRange (findMatch s) := by
  have hr : findMatch s = (findMatch s).restream s.out s.acc s.cnt :=
    findMatch_restream (s := s) (o := s.out) (a := s.acc) (c := s.cnt)
  have hp : (findMatch s).params = s.params := by rw [findMatch_frame.1]
  rw [hr]
  exact ⟨fun cap hc => h.1 cap (hp ▸ hc), h.2⟩

theorem emitAt_inRange (h : StreamInRange s) : Ends StreamInRange (emitAt s) := by
  unfold emitAt
  split
  · exact (putMatch_inRange _ _ h).bind fun _ h => .ok h
  · exact (putSym_inRange _ h).bind fun _ h => .ok h

theorem mainLoop_inRange (fuel : Nat) (h : StreamInRange s) : Ends StreamInRange (mainLoop fuel s) := by
  induction fuel generalizing s with
  | zero => exact .ok h
  | succ fuel ih =>
    simp only [mainLoop]
    split
    · exact (emitAt_inRange (findMatch_inRange h)).bind fun _ h => ih h
    · exact .ok h

theorem tailLoop_inRange (fuel : Nat) (h : StreamInRange s) : Ends StreamInRange (tailLoop fuel s) := by
  induction fuel generalizing s with
  | zero => exact .ok h
  | succ fuel ih =>
    simp only [tailLoop]
    split
    · exact (putSym_inRange _ h).bind fun u h => ih (s := u.setPos _) h
    · exact .ok h

theorem zlibHeader_inRange (h : StreamInRange s) : Ends StreamInRange (zlibHeader s) :=
  (writeBits_inRange _ _ h).bind fun _ h => (writeBits_inRange _ _ h).bind fun _ h =>
    (writeBits_inRange _ _ h).bind fun _ h => writeBits_inRange _ _ h

/-- The checksum from its seed is reduced (R43, R191, R192). -/
theorem checksumRun_init_reduced : SumsReduced (checksumRun (checksumInit s)) :=
  blocks_reduced _ _ (by decide : 1 < BASE) (by decide : 0 < BASE)

/-- The trailer computes LO and HI anew, whatever they were (R158). -/
theorem zlibTrailer_inRange (h : StreamInRange s) :
    Ends (fun t => StreamInRange t ∧ SumsReduced t) (zlibTrailer s) := by
  have hsame : StreamInRange (checksumRun (checksumInit s)) := by
    rw [checksumRun_frame]
    exact h
  intro t ht
  obtain ⟨hstream, hlo, hhi⟩ := writeBe32_inRange _ hsame t ht
  exact ⟨hstream, hlo ▸ checksumRun_init_reduced.1, hhi ▸ checksumRun_init_reduced.2⟩

/-- A ZCOMP that finds room for its whole stream leaves the output stream and the sums in range. -/
theorem zcompStream_inRange (h : StreamInRange s) :
    Ends (fun t => StreamInRange t ∧ SumsReduced t) (zcompStream s) :=
  (zlibHeader_inRange (s := (s.setQ (clampQuality s)).setHt []) h).bind fun u h =>
    (mainLoop_inRange _ (s := u.setPos 0) h).bind fun _ h => (tailLoop_inRange _ h).bind fun _ h =>
      (putSym_inRange 256 h).bind fun _ h => (flushBits_inRange true h).bind fun _ h => zlibTrailer_inRange h

end Sys2Proof.Machine
end

section
/-! PROOFS. Every step keeps the invariant: what each group of fields asks of a new state, then command by command, then
the host's operations. -/

namespace Sys2Proof.Machine

variable {s t : State} {i : Instr}

/-! ### What the invariant says of a block that is not FAULTED -/

theorem State.Ready.ne_outFull (hr : s.Ready) : s.err ≠ faultCode .outFull := by
  rw [hr]
  decide

theorem State.Inv.streamInRange (hi : s.Inv) (hr : s.Ready) : StreamInRange s :=
  ⟨hi.outFits, hi.cntLe, hi.accLt hr.ne_outFull⟩

theorem State.Inv.sumsReduced (hi : s.Inv) (hr : s.Ready) : SumsReduced s :=
  ⟨hi.loLt hr.ne_outFull, hi.hiLt hr.ne_outFull⟩

/-! ### New states that meet it -/

/-- The invariant says nothing of the configuration registers and the host's lists. -/
theorem State.Inv.of_config (hi : s.Inv) (h : ConfigFrame s t) : t.Inv := by
  rw [h]
  exact { hi with }

/-- A command that completed in its unit: the output stream and the sums have to be in range. -/
theorem State.Inv.of_unit (hi : s.Inv) (h : UnitFrame s t) (hstream : StreamInRange t) (hsums : SumsReduced t) :
    t.Inv := by
  obtain ⟨hfits, hcnt, hacc⟩ := hstream
  obtain ⟨hlo, hhi⟩ := hsums
  rw [h.1] at hfits ⊢
  exact { hi with
    outFits := hfits, cntLe := hcnt, accLt := fun _ => hacc, loLt := fun _ => hlo, hiLt := fun _ => hhi }

/-- A fault in a state that is in range. -/
theorem State.Inv.fault (hi : s.Inv) (hr : s.Ready) (f : CmdFault) : (raise f s).Inv := by
  rw [raise_ready hr]
  exact { hi with
    errLe := faultCode_range.2
    accLt := fun _ => hi.accLt hr.ne_outFull
    loLt := fun _ => hi.loLt hr.ne_outFull
    hiLt := fun _ => hi.hiLt hr.ne_outFull }

/-- OUT_FULL inside ZCOMP (R161): of what it left, OUT and CNT have to be in range. -/
theorem State.Inv.outFull (hi : s.Inv) (hr : s.Ready) (h : UnitFrame s t) (hfits : Fits t) (hcnt : t.cnt ≤ 7) :
    (raise .outFull t).Inv := by
  rw [raise_ready (show t.Ready by rw [h.1]; exact hr)]
  rw [h.1] at hfits ⊢
  exact { hi with
    outFits := hfits, cntLe := hcnt, errLe := faultCode_range.2, accLt := absurd rfl, loLt := absurd rfl,
    hiLt := absurd rfl }

/-- A row written into FB (R133), with a kind and a cost in range (R35, R36). -/
theorem State.Inv.row (hi : s.Inv) (h : s.RowOk) (k : FilterKind) : (applyKind k s).Inv := by
  obtain ⟨-, -, -, hsize, -, -, hfb⟩ := h
  have hkind : (BitVec.ofNat 3 (kindNum k)).toNat ≤ 4 := by cases k <;> decide
  have hcost : (applyKind k s).cost.toNat ≤ 2 ^ 31 := by
    have := rowCost_le (s := s) (k := k)
    rw [applyKind_cost hsize]
    simp only [MAX_ROW] at hsize
    omega
  exact { hi with
    fbWf := Memory.writeList_wf hi.fbWf
    fbWithin := Memory.writeList_within hi.fbWithin (by rw [length_filteredRow]; exact hfb)
    kindLe := hkind
    costLe := hcost }

theorem State.Inv.pixPut (hi : s.Inv) {a : Nat} (ha : a < s.params.pixSize) (b : Byte) : (s.pixPut a b).Inv :=
  { hi with pixWf := Memory.write_wf hi.pixWf, pixWithin := Memory.write_within hi.pixWithin ha }

theorem State.Inv.fbPut (hi : s.Inv) {a : Nat} (ha : a < s.params.fbSize) (b : Byte) : (s.fbPut a b).Inv :=
  { hi with fbWf := Memory.write_wf hi.fbWf, fbWithin := Memory.write_within hi.fbWithin ha }

/-- RESET: the values of a block right after reset, around the memories as they are (R240). -/
theorem State.Inv.reset (hi : s.Inv) : (resetBlock s).Inv :=
  { State.init_inv hi.legal with
    pixWf := hi.pixWf, pixWithin := hi.pixWithin, fbWf := hi.fbWf, fbWithin := hi.fbWithin }

/-! ### Command by command, in a block that is not FAULTED -/

/-- A command that appends and found room. -/
theorem State.Inv.append {x : Appended} (hi : s.Inv) (hr : s.Ready) (hx : Appends s x) (hs : Ends StreamInRange x)
    (hok : ∃ t, x = .ok t) : (settle x).Inv := by
  obtain ⟨t, rfl⟩ := hok
  have hframe : StreamFrame s t := hx.1
  have hsums : SumsReduced t := by
    rw [hframe.1]
    exact hi.sumsReduced hr
  exact hi.of_unit hframe.unit (hs t rfl) hsums

theorem filterRow_inv (hi : s.Inv) (hr : s.Ready) (sel : State → FilterKind) : (filterRow sel s).Inv := by
  obtain ⟨f, -, h⟩ | ⟨hok, h⟩ := filterRow_cases (s := s) sel <;> rw [h]
  · exact hi.fault hr f
  · exact hi.row hok _

/-- The check of WRBITS leaves `WriteBits` the room it needs (R227). -/
theorem wrbits_inv (hi : s.Inv) (hr : s.Ready) (v : Word) (count : Nat) : (wrbits v count s).Inv := by
  unfold wrbits
  split
  · exact hi.fault hr _
  · next hcount =>
    split
    · exact hi.fault hr _
    · next hcap =>
      have hroom : s.RoomFor ((s.cnt + count) / 8) := exceedsCap_iff.1 (by simpa using hcap)
      have hcnt := hi.cntLe
      obtain ⟨t, ht, -⟩ := writeBits_ok (v := v) (c := count) (by omega) (hi.accLt hr.ne_outFull) hroom
      exact hi.append hr (writeBits_appends v count) (writeBits_inRange v count (hi.streamInRange hr)) ⟨t, ht⟩

/-- OUT is within OUT_CAP and not full: there is room for a byte. -/
theorem roomFor_one (hfits : Fits s) (h : s.params.outCap ≠ some s.out.length) : s.RoomFor 1 := by
  intro cap hcap
  have hle : s.out.length ≤ cap := hfits cap hcap
  have hne : cap ≠ s.out.length := fun he => h (he ▸ hcap)
  omega

/-- The check of FLUSH leaves `FlushBits` the room it needs (R227). -/
theorem flush_inv (hi : s.Inv) (hr : s.Ready) (final : Bool) : (flush final s).Inv := by
  unfold flush
  split
  · exact hi.fault hr _
  · next hfull =>
    have hroom : s.cnt = 0 ∨ s.RoomFor 1 := by
      by_cases hcnt : 0 < s.cnt
      · exact .inr (roomFor_one hi.outFits fun hc => hfull ⟨hcnt, hc⟩)
      · exact .inl (by omega)
    exact hi.append hr (flushBits_appends final) (flushBits_inRange final (hi.streamInRange hr)) ⟨_, flushBits_ok hroom⟩

/-- The check of WRBE32 leaves `WriteBe32` the room it needs (R227). -/
theorem wrbe32_inv (hi : s.Inv) (hr : s.Ready) (v : Word) : (wrbe32 v s).Inv := by
  unfold wrbe32
  split
  · exact hi.fault hr _
  · split
    · exact hi.fault hr _
    · next hcap =>
      have hroom : s.RoomFor 4 := exceedsCap_iff.1 (by simpa using hcap)
      have hstream : Ends StreamInRange (writeBe32 v s) := fun t ht =>
        (writeBe32_inRange v (hi.streamInRange hr) t ht).1
      exact hi.append hr (writeBe32_appends v) hstream ⟨_, writeBe32_ok hroom⟩

theorem bsclr_inv (hi : s.Inv) : (bsclr s).Inv :=
  { hi with
    outFits := fun cap _ => Nat.zero_le cap, cntLe := Nat.zero_le 7, accLt := fun _ => Nat.zero_lt_one }

/-- A command of unit AD leaves the output stream alone. -/
theorem State.Inv.of_sums (hi : s.Inv) (hr : s.Ready) (h : SumFrame s t) (hsums : SumsReduced t) : t.Inv := by
  have hstream : StreamInRange t := by
    rw [h]
    exact hi.streamInRange hr
  exact hi.of_unit (SumFrame.lz h).unit hstream hsums

theorem checksumInit_inv (hi : s.Inv) (hr : s.Ready) : (checksumInit s).Inv :=
  hi.of_sums hr checksumInit_frame ⟨(by decide : 1 < BASE), (by decide : 0 < BASE)⟩

theorem adupd_inv (hi : s.Inv) (hr : s.Ready) : (adupd s).Inv := by
  obtain ⟨hlo, hhi⟩ := hi.sumsReduced hr
  obtain ⟨-, h⟩ | ⟨-, -, h⟩ | ⟨-, -, h⟩ := adupd_cases (s := s) <;> rw [h]
  · exact hi.fault hr _
  · exact hi.fault hr _
  · exact hi.of_sums hr checksumRun_frame (blocks_reduced _ _ hlo hhi)

/-- ZCOMP: a fault of its checks, a whole stream in range, or OUT_FULL with OUT exactly full (R161). -/
theorem zcomp_inv (hi : s.Inv) (hr : s.Ready) : (zcomp s).Inv := by
  obtain ⟨f, -, h⟩ | ⟨-, t, ht, hframe, h⟩ | ⟨-, t, -, hframe, hfull, h⟩ := zcomp_cases (s := s) <;> rw [h]
  · exact hi.fault hr f
  · obtain ⟨hstream, hsums⟩ := zcompStream_inRange (hi.streamInRange hr) t ht
    exact hi.of_unit hframe.forgetTable hstream hsums
  · have hfits : Fits (abandon t) := by
      intro cap hcap
      have hlen : t.out.length = cap := Option.some.inj (hfull.symm.trans hcap)
      rw [abandon_out, hlen, Nat.add_zero]
    exact hi.outFull hr hframe.abandon hfits abandon_cnt_le

/-- Every command keeps the invariant in a block that is not FAULTED. -/
theorem exec_inv (hi : s.Inv) (hr : s.Ready) (h : exec i s = .next t) : t.Inv := by
  cases i with
  | fltNone => exact command_next hr h ▸ filterRow_inv hi hr _
  | fltSub => exact command_next hr h ▸ filterRow_inv hi hr _
  | fltUp => exact command_next hr h ▸ filterRow_inv hi hr _
  | fltAvg => exact command_next hr h ▸ filterRow_inv hi hr _
  | fltPaeth => exact command_next hr h ▸ filterRow_inv hi hr _
  | fltAuto => exact command_next hr h ▸ filterRow_inv hi hr _
  | zcomp => exact command_next hr h ▸ zcomp_inv hi hr
  | wrbits v count => exact command_next hr h ▸ wrbits_inv hi hr v count
  | flush final => exact command_next hr h ▸ flush_inv hi hr final
  | wrbe32 v => exact command_next hr h ▸ wrbe32_inv hi hr v
  | bsclr => exact command_next hr h ▸ bsclr_inv hi
  | adinit => exact command_next hr h ▸ checksumInit_inv hi hr
  | adupd => exact command_next hr h ▸ adupd_inv hi hr

/-! ### The step -/

/-- Settles O16: taking an operation off the list and replying keeps the invariant, and so does what the operation does. -/
theorem stepKeepsTheInvariant : Obligations.StepKeepsTheInvariant := by
  intro s t hi h
  have hreplied (ops : List HostOp) (r : Reply) : (s.replied ops r).Inv := hi.of_config State.replied_frame
  cases step_effect h with
  | config h => exact hi.of_config h
  | @illegal w ops hs hr =>
    rw [← raise_ready (s := s.replied ops .done) hr]
    exact (hreplied ops .done).fault hr .illegalCmd
  | command hs hr hw h => exact exec_inv (hreplied _ .done) hr h
  | @pixwr a b ops hs ha => exact (hreplied ops .done).pixPut ha b
  | @fbwr a b ops hs ha => exact (hreplied ops .done).fbPut ha b
  | reset hs => exact (hreplied _ .done).reset

end Sys2Proof.Machine
end

section
/-! PROOFS. Command words (R80 to R87): the encoder and the decoder are inverse to each other, and the rows of the opcode
map match exactly the words that decode. -/

namespace Sys2Proof

variable {w m c : CmdWord} {i j : Instr}

/-! ### Encoding and decoding -/

/-- R80 to R85: the four fields of a command's word are read back as they were packed. -/
theorem decode_encode (h : WellFormed i = true) : decode (encode i) = .instr i := by
  cases i with
  | wrbits value count =>
    have hcount : count < 64 := of_decide_eq_true h
    simp [encode, decode, opcodeOf, decodeB, n6Of, immOf, Nat.mod_eq_of_lt hcount]
  | flush final => cases final <;> decide
  | wrbe32 value => simp [encode, decode, opcodeOf, decodeW, n6Of, immOf]
  | fltNone | fltSub | fltUp | fltAvg | fltPaeth | fltAuto | zcomp | bsclr | adinit | adupd => decide

/-- Settles O1: the decoder reads the fields of the encoded word back, for every operand that fits its field. -/
theorem decodeOfEncodeIsTheCommand : Obligations.DecodeOfEncodeIsTheCommand := fun _ h => decode_encode h

/-- The fields of `w` are those of the well-formed command `i`, and its reserved field is 0. -/
structure FieldsOf (i : Instr) (w : CmdWord) : Prop where
  wf : WellFormed i = true
  op : opField w = opcodeOf i
  rsv : rsvField w = 0#18
  n6 : n6Field w = n6Of i
  imm : immField w = immOf i

/-- Four fields are the whole word. -/
theorem FieldsOf.encode_eq (h : FieldsOf i w) : encode i = w := by
  rw [encode, ← h.op, ← h.n6, ← h.imm, packWord_fields w h.rsv]

/-- A command without operands (R81). -/
def NoOperands (i : Instr) : Prop := WellFormed i = true ∧ n6Of i = 0#6 ∧ immOf i = 0#32

/-- Format Z (R81), for a command that has no operand. -/
theorem decodeZ_fields (hop : opField w = opcodeOf i) (hi : NoOperands i) (h : decodeZ w i = .instr j) : FieldsOf j w := by
  unfold decodeZ at h
  split at h <;> cases h
  next hz =>
    obtain ⟨hrsv, hn6, himm⟩ := hz
    obtain ⟨hwf, hn6i, himmi⟩ := hi
    exact ⟨hwf, hop, hrsv, hn6.trans hn6i.symm, himm.trans himmi.symm⟩

/-- Format B (R82): every count that six bits hold is well formed. -/
theorem decodeB_fields (hop : opField w = 0x30#8) (h : decodeB w = .instr j) : FieldsOf j w := by
  unfold decodeB at h
  split at h <;> cases h
  next hrsv => exact ⟨decide_eq_true (n6Field w).isLt, hop, hrsv, by simp [n6Of], rfl⟩

/-- Six bits whose upper five are 0 are the number of the lowest. -/
theorem n6_of_upper_zero (n : BitVec 6) (h : n.extractLsb' 1 5 = 0#5) : n = if n.getLsbD 0 then 1#6 else 0#6 := by
  revert n
  decide

/-- Format F (R83). -/
theorem decodeF_fields (hop : opField w = 0x31#8) (h : decodeF w = .instr j) : FieldsOf j w := by
  unfold decodeF at h
  split at h <;> cases h
  next hz =>
    obtain ⟨hrsv, hn6, himm⟩ := hz
    exact ⟨rfl, hop, hrsv, n6_of_upper_zero _ hn6, himm⟩

/-- Format W (R84). -/
theorem decodeW_fields (hop : opField w = 0x32#8) (h : decodeW w = .instr j) : FieldsOf j w := by
  unfold decodeW at h
  split at h <;> cases h
  next hz => exact ⟨rfl, hop, hz.1, hz.2, rfl⟩

/-- What the decoder can answer for `w`: the check of one format, the opcode being of that format, or that the opcode is in
no row (R85, R86). -/
inductive DecodeArm (w : CmdWord) : Decoded → Prop
  | z {i : Instr} (hop : opField w = opcodeOf i) (hi : NoOperands i) : DecodeArm w (decodeZ w i)
  | b (hop : opField w = 0x30#8) : DecodeArm w (decodeB w)
  | f (hop : opField w = 0x31#8) : DecodeArm w (decodeF w)
  | w (hop : opField w = 0x32#8) : DecodeArm w (decodeW w)
  | unknown : DecodeArm w (.illegal (.unknownOpcode (opField w)))

theorem decode_arm (w : CmdWord) : DecodeArm w (decode w) :=
  iteInduction (fun hop => .z hop ⟨rfl, rfl, rfl⟩) fun _ =>
  iteInduction (fun hop => .z hop ⟨rfl, rfl, rfl⟩) fun _ =>
  iteInduction (fun hop => .z hop ⟨rfl, rfl, rfl⟩) fun _ =>
  iteInduction (fun hop => .z hop ⟨rfl, rfl, rfl⟩) fun _ =>
  iteInduction (fun hop => .z hop ⟨rfl, rfl, rfl⟩) fun _ =>
  iteInduction (fun hop => .z hop ⟨rfl, rfl, rfl⟩) fun _ =>
  iteInduction (fun hop => .z hop ⟨rfl, rfl, rfl⟩) fun _ =>
  iteInduction (fun hop => .b hop) fun _ =>
  iteInduction (fun hop => .f hop) fun _ =>
  iteInduction (fun hop => .w hop) fun _ =>
  iteInduction (fun hop => .z hop ⟨rfl, rfl, rfl⟩) fun _ =>
  iteInduction (fun hop => .z hop ⟨rfl, rfl, rfl⟩) fun _ =>
  iteInduction (fun hop => .z hop ⟨rfl, rfl, rfl⟩) fun _ => .unknown

/-- A word that decodes has the fields of its command (R86): its format has checked the bits that the command fixes. -/
theorem decode_fields (h : decode w = .instr j) : FieldsOf j w := by
  have harm := decode_arm w
  generalize decode w = d at harm h
  cases harm with
  | z hop hi => exact decodeZ_fields hop hi h
  | b hop => exact decodeB_fields hop h
  | f hop => exact decodeF_fields hop h
  | w hop => exact decodeW_fields hop h
  | unknown => cases h

/-- Settles O2: a word that decodes has the fields of its command, and those are the whole word. -/
theorem encodeOfDecodeIsTheWord : Obligations.EncodeOfDecodeIsTheWord := fun _ _ h =>
  ⟨(decode_fields h).wf, (decode_fields h).encode_eq⟩

/-! ### The opcode map -/

/-- The row of a command is the only row its word matches (R85). -/
theorem tableRow (i : Instr) : Laws.TableRow.Statement i := by
  cases i with
  | fltNone => exact Laws.TableRow.fltNone
  | fltSub => exact Laws.TableRow.fltSub
  | fltUp => exact Laws.TableRow.fltUp
  | fltAvg => exact Laws.TableRow.fltAvg
  | fltPaeth => exact Laws.TableRow.fltPaeth
  | fltAuto => exact Laws.TableRow.fltAuto
  | zcomp => exact Laws.TableRow.zcomp
  | wrbits value count => exact Laws.TableRow.wrbits value count
  | flush final => exact Laws.TableRow.flush final
  | wrbe32 value => exact Laws.TableRow.wrbe32 value
  | bsclr => exact Laws.TableRow.bsclr
  | adinit => exact Laws.TableRow.adinit
  | adupd => exact Laws.TableRow.adupd

/-- A field that a mask keeps whole has the value the code has there. -/
theorem field_of_and_eq (start len : Nat) (h : w &&& m = c)
    (hm : m.extractLsb' start len = BitVec.allOnes len) : w.extractLsb' start len = c.extractLsb' start len := by
  rw [← h, BitVec.extractLsb'_and, hm, BitVec.and_allOnes]

/-- A word that matches a row without operands is the word of the row's command. -/
theorem decodes_of_full_mask (i : Instr) (hi : WellFormed i = true) (h : w &&& 0xFFFFFFFFFFFFFFFF#64 = encode i) :
    ∃ i, decode w = .instr i := by
  have hw : w = encode i := (BitVec.and_allOnes (x := w)).symm.trans h
  exact ⟨i, hw ▸ decode_encode hi⟩

/-- The row of WRBITS fixes the opcode and the reserved field (R82). -/
theorem decodes_of_wrbits_row (h : w &&& 0xFFFFFFC000000000#64 = 0x3000000000000000#64) :
    ∃ i, decode w = .instr i := by
  have hop : opField w = 0x30#8 := field_of_and_eq 56 8 h (by decide)
  have hrsv : rsvField w = 0#18 := field_of_and_eq 38 18 h (by decide)
  exact ⟨.wrbits (immField w) (n6Field w).toNat, by simp [decode, hop, decodeB, hrsv]⟩

/-- The upper five bits of `n6` are `w[37:33]` (R83). -/
theorem n6Field_upper (w : CmdWord) : (n6Field w).extractLsb' 1 5 = w.extractLsb' 33 5 := by
  apply BitVec.eq_of_getLsbD_eq
  intro k hk
  simp [n6Field, hk, show 1 + k < 6 by omega, show 32 + (1 + k) = 33 + k by omega]

/-- The row of FLUSH leaves the lowest bit of `n6` free (R83). -/
theorem decodes_of_flush_row (h : w &&& 0xFFFFFFFEFFFFFFFF#64 = 0x3100000000000000#64) :
    ∃ i, decode w = .instr i := by
  have hop : opField w = 0x31#8 := field_of_and_eq 56 8 h (by decide)
  have hrsv : rsvField w = 0#18 := field_of_and_eq 38 18 h (by decide)
  have hupper : (n6Field w).extractLsb' 1 5 = 0#5 := (n6Field_upper w).trans (field_of_and_eq 33 5 h (by decide))
  have himm : immField w = 0#32 := field_of_and_eq 0 32 h (by decide)
  exact ⟨.flush ((n6Field w).getLsbD 0), by simp [decode, hop, decodeF, hrsv, hupper, himm]⟩

/-- The row of WRBE32 leaves the immediate operand free (R84). -/
theorem decodes_of_wrbe32_row (h : w &&& 0xFFFFFFFF00000000#64 = 0x3200000000000000#64) :
    ∃ i, decode w = .instr i := by
  have hop : opField w = 0x32#8 := field_of_and_eq 56 8 h (by decide)
  have hrsv : rsvField w = 0#18 := field_of_and_eq 38 18 h (by decide)
  have hn6 : n6Field w = 0#6 := field_of_and_eq 32 6 h (by decide)
  exact ⟨.wrbe32 (immField w), by simp [decode, hop, decodeW, hrsv, hn6]⟩

/-- A word that matches a row of the opcode map decodes: the row's mask keeps every bit that the format checks (R86). -/
theorem decodes_of_row {r : OpRow} (hr : r ∈ opcodeMap) (h : w &&& r.mask = r.code) : ∃ i, decode w = .instr i := by
  simp only [opcodeMap, List.mem_cons, List.not_mem_nil, or_false] at hr
  obtain rfl | rfl | rfl | rfl | rfl | rfl | rfl | rfl | rfl | rfl | rfl | rfl | rfl := hr
  · exact decodes_of_full_mask .fltNone rfl h
  · exact decodes_of_full_mask .fltSub rfl h
  · exact decodes_of_full_mask .fltUp rfl h
  · exact decodes_of_full_mask .fltAvg rfl h
  · exact decodes_of_full_mask .fltPaeth rfl h
  · exact decodes_of_full_mask .fltAuto rfl h
  · exact decodes_of_full_mask .zcomp rfl h
  · exact decodes_of_wrbits_row h
  · exact decodes_of_flush_row h
  · exact decodes_of_wrbe32_row h
  · exact decodes_of_full_mask .bsclr rfl h
  · exact decodes_of_full_mask .adinit rfl h
  · exact decodes_of_full_mask .adupd rfl h

/-- An illegal word matches no row. -/
theorem no_row_of_illegal {why : Illegal} (hd : decode w = .illegal why) :
    (opcodeMap.filter fun r => w &&& r.mask == r.code) = [] := by
  refine List.filter_eq_nil_iff.2 fun r hr hmatch => ?_
  obtain ⟨i, hi⟩ := decodes_of_row hr (beq_iff_eq.1 hmatch)
  rw [hd] at hi
  cases hi

/-- CMD of an illegal word to a block that is not FAULTED (R222): the operation completes, and ERR is ILLEGAL_CMD. -/
theorem step_illegal_cmd {why : Illegal} {s : Machine.State} {ops : List Machine.HostOp} (hd : decode w = .illegal why)
    (hr : s.Ready) (hs : s.hostOps = .cmd w :: ops) :
    Machine.step s = .next { s with hostOps := ops, replies := .done :: s.replies, err := 1#4 } :=
  (Machine.step_op hs).trans (Machine.runCmd_illegal (s := s.replied ops .done) hr hd)

/-- Settles O3: a word that decodes is the word of its command, which matches the command's own row only; an illegal word
matches none. -/
theorem wordSelectsOneCommandOrIsIllegal : Obligations.WordSelectsOneCommandOrIsIllegal := by
  intro w
  cases hd : decode w with
  | instr i =>
    have hrow : Laws.TableRow.Statement i := tableRow i
    rw [Laws.TableRow.Statement, (decode_fields hd).encode_eq] at hrow
    exact .inl ⟨i, rfl, hrow⟩
  | illegal why => exact .inr ⟨why, rfl, no_row_of_illegal hd, fun _ _ hr hs => step_illegal_cmd hd hr hs⟩

/-- Settles O4: each printed word is closed, so the decoder evaluates on it. -/
theorem specWordsDecodeAsPrinted : Obligations.SpecWordsDecodeAsPrinted := by
  unfold Obligations.SpecWordsDecodeAsPrinted
  decide

end Sys2Proof
end

section
/-! PROOFS. The codes of the output stream (R93 to R105): BitRev, the fixed literal/length code, and the bins. -/

namespace Sys2Proof.Machine

/-! ### BitRev (R104) -/

theorem bitRev_lt (v n : Nat) : bitRev v n < 2 ^ n := by
  induction n generalizing v with
  | zero => exact Nat.one_pos
  | succ n ih =>
    have hlow := ih (v / 2)
    have hbit : v % 2 * 2 ^ n ≤ 1 * 2 ^ n := Nat.mul_le_mul_right _ (by omega)
    rw [bitRev, Nat.pow_succ]
    omega

/-- Bit `k` of the reversed number: the last bit of `v` goes to the top, the others are reversed below it. -/
theorem testBit_bitRev (v : Nat) {n k : Nat} (hk : k < n) : (bitRev v n).testBit k = v.testBit (n - 1 - k) := by
  induction n generalizing v k with
  | zero => exact absurd hk (Nat.not_lt_zero k)
  | succ n ih =>
    rw [bitRev, Nat.mul_comm, Nat.testBit_two_pow_mul_add _ (bitRev_lt _ _)]
    split
    · next h => rw [ih _ h, ← Nat.testBit_succ, show (n - 1 - k).succ = n + 1 - 1 - k by omega]
    · next h =>
      obtain rfl : k = n := by omega
      simp

/-- Numbers of at most `n` bits are the same when those bits are. -/
theorem eq_of_testBit_eq_below {a b n : Nat} (ha : a < 2 ^ n) (hb : b < 2 ^ n)
    (h : ∀ k, k < n → a.testBit k = b.testBit k) : a = b := by
  apply Nat.eq_of_testBit_eq
  intro k
  by_cases hk : k < n
  · exact h k hk
  · have hpow : 2 ^ n ≤ 2 ^ k := Nat.pow_le_pow_right (by decide) (by omega)
    rw [Nat.testBit_lt_two_pow (Nat.lt_of_lt_of_le ha hpow), Nat.testBit_lt_two_pow (Nat.lt_of_lt_of_le hb hpow)]

theorem bitRev_bitRev {v n : Nat} (hv : v < 2 ^ n) : bitRev (bitRev v n) n = v := by
  refine eq_of_testBit_eq_below (bitRev_lt _ _) hv fun k hk => ?_
  rw [testBit_bitRev _ hk, testBit_bitRev _ (by omega), show n - 1 - (n - 1 - k) = k by omega]

/-- Settles O47: bit by bit, by induction on the number of bits. -/
theorem bitRevReversesTheBits : Obligations.BitRevReversesTheBits :=
  ⟨fun v n hv => ⟨bitRev_lt v n, fun _ hk => testBit_bitRev v hk, bitRev_bitRev hv⟩, rfl⟩

/-! ### The fixed literal/length code (R93 to R95) -/

/-- The reversed code, bit 0 first, is the code, most significant bit first (R93, R104). -/
theorem numBits_bitRev (v n : Nat) : numBits (bitRev v n) n = codeBits v n :=
  List.map_congr_left fun _ hk => testBit_bitRev v (List.mem_range.1 hk)

/-- The low bits of a number are those of its 32-bit word. -/
theorem numBits_word {n : Nat} (hn : n ≤ 32) (v : Nat) : numBits (BitVec.ofNat 32 v).toNat n = numBits v n := by
  refine List.map_congr_left fun k hk => ?_
  have hk : k < 32 := (List.mem_range.1 hk).trans_le hn
  rw [BitVec.toNat_ofNat, Nat.testBit_mod_two_pow, decide_eq_true hk, Bool.true_and]

/-- So it is when the reversed code is handed over as a 32-bit value. -/
theorem numBits_bitRev_word {n : Nat} (hn : n ≤ 32) (v : Nat) :
    numBits (BitVec.ofNat 32 (bitRev v n)).toNat n = codeBits v n :=
  (numBits_word hn _).trans (numBits_bitRev v n)

theorem symLen_range (sym : Nat) : 7 ≤ symLen sym ∧ symLen sym ≤ 9 := by
  unfold symLen
  split_ifs <;> decide

/-- Settles O48: PutSym is WriteBits of the reversed code, and a code has at most 9 bits. -/
theorem putSymWritesTheCodeMsbFirst : Obligations.PutSymWritesTheCodeMsbFirst := by
  intro s sym _ hi hr hroom
  obtain ⟨-, hlen⟩ := symLen_range sym
  have hcnt := hi.cntLe
  obtain ⟨t, ht, hframe, -, -, hbits⟩ :=
    writeBits_ok (v := BitVec.ofNat 32 (bitRev (symCode sym) (symLen sym))) (by omega) (hi.accLt hr.ne_outFull) hroom
  exact ⟨t, ht, hframe, by rw [hbits, numBits_bitRev_word (by omega)]⟩

/-- A code fits its length (R94). -/
theorem symCode_lt {sym : Nat} (h : sym ≤ 287) : symCode sym < 2 ^ symLen sym := by
  unfold symCode symLen
  split_ifs <;> omega

/-- A code is known from its bits. -/
theorem codeBits_injective {a b n : Nat} (ha : a < 2 ^ n) (hb : b < 2 ^ n) (h : codeBits a n = codeBits b n) : a = b := by
  refine eq_of_testBit_eq_below ha hb fun k hk => ?_
  have hbit := List.map_inj_left.1 h (n - 1 - k) (List.mem_range.2 (by omega))
  rwa [show n - 1 - (n - 1 - k) = k by omega] at hbit

/-- The first `m` bits of an `n`-bit code are the code without its last `n - m` bits. -/
theorem take_codeBits {m n : Nat} (h : m ≤ n) (c : Nat) : (codeBits c n).take m = codeBits (c / 2 ^ (n - m)) m := by
  rw [codeBits, ← List.map_take, List.take_range, Nat.min_eq_left h]
  refine List.map_congr_left fun k hk => ?_
  have hk : k < m := List.mem_range.1 hk
  rw [Nat.testBit_div_two_pow, show m - 1 - k + (n - m) = n - 1 - k by omega]

/-- A code that another begins with is that one without its last bits. -/
theorem code_of_prefix {c d m n : Nat} (hc : c < 2 ^ m) (hd : d < 2 ^ n) (h : codeBits c m <+: codeBits d n) :
    m ≤ n ∧ c = d / 2 ^ (n - m) := by
  have hmn : m ≤ n := by simpa using h.length_le
  have hlt : d / 2 ^ (n - m) < 2 ^ m := by
    rw [Nat.div_lt_iff_lt_mul (Nat.two_pow_pos _), ← Nat.pow_add, Nat.add_sub_cancel' hmn]
    exact hd
  have htake : codeBits c m = codeBits (d / 2 ^ (n - m)) m := by
    rw [← take_codeBits hmn, List.prefix_iff_eq_take.1 h, length_codeBits]
  exact ⟨hmn, codeBits_injective hc hlt htake⟩

/-- The codes of each length, over all rows of R94. -/
theorem symCode_ranges {sym : Nat} (h : sym ≤ 287) :
    (symLen sym = 7 ∧ symCode sym < 24) ∨ (symLen sym = 8 ∧ 48 ≤ symCode sym ∧ symCode sym < 200) ∨
    (symLen sym = 9 ∧ 400 ≤ symCode sym) := by
  unfold symCode symLen
  split_ifs <;> omega

theorem symCode_injective {a b : Nat} (ha : a ≤ 287) (hb : b ≤ 287) (h : symCode a = symCode b) : a = b := by
  unfold symCode at h
  split_ifs at h <;> omega

/-- No code of the table is the beginning of another: a shorter code is not a longer one without its last bits, because of
the ranges the codes of each length lie in. -/
theorem eq_of_code_prefix {a b : Nat} (ha : a ≤ 287) (hb : b ≤ 287)
    (h : codeBits (symCode a) (symLen a) <+: codeBits (symCode b) (symLen b)) : a = b := by
  obtain ⟨hle, hcode⟩ := code_of_prefix (symCode_lt ha) (symCode_lt hb) h
  obtain hlen | hlt := Nat.eq_or_lt_of_le hle
  · rw [hlen, Nat.sub_self, Nat.pow_zero, Nat.div_one] at hcode
    exact symCode_injective ha hb hcode
  · exfalso
    obtain ⟨hla, hca⟩ | ⟨hla, hca⟩ | ⟨hla, hca⟩ := symCode_ranges ha <;>
      obtain ⟨hlb, hcb⟩ | ⟨hlb, hcb⟩ | ⟨hlb, hcb⟩ := symCode_ranges hb <;>
      rw [hla, hlb] at hlt hcode <;> omega

/-- Settles O49: the rows by the definition of the code; that no code begins another by the ranges of the codes. -/
theorem fixedCodeIsPrefixFree : Obligations.FixedCodeIsPrefixFree := by
  refine ⟨fun s => ?_, fun a b ha hb h => eq_of_code_prefix ha hb h⟩
  unfold symLen symCode
  refine ⟨fun h => ?_, fun h => ?_, fun h => ?_, fun h => ?_⟩ <;> split_ifs <;> omega

/-! ### The bins of lengths and distances (R96 to R99) -/

/-- The bin of `x` among ranges that begin at `b` and end before the next of `bs`: the first that `x` is before the end of. -/
theorem bin_range {b x : Nat} {bs : List Nat} (hb : b ≤ x) (hx : ∃ e ∈ bs, x < e) :
    let j := bs.findIdx fun e => decide (x < e)
    j < bs.length ∧ (b :: bs).getD j 0 ≤ x ∧ x < (b :: bs).getD (j + 1) 0 := by
  induction bs generalizing b with
  | nil => simp at hx
  | cons e bs ih =>
    by_cases he : x < e
    · simp [List.findIdx_cons, he, hb]
    · have hx : ∃ e ∈ bs, x < e := by simpa [he] using hx
      obtain ⟨h1, h2, h3⟩ := ih (Nat.le_of_not_lt he) hx
      simp only [List.findIdx_cons, he, decide_false, cond_false]
      exact ⟨Nat.succ_lt_succ h1, h2, h3⟩

theorem lenBin_range {L : Nat} (h3 : 3 ≤ L) (h258 : L ≤ 258) :
    lenBin L ≤ 28 ∧ lenBase.getD (lenBin L) 0 ≤ L ∧ L < lenBase.getD (lenBin L + 1) 0 := by
  obtain ⟨hlt, hrange⟩ := bin_range (bs := lenBase.drop 1) h3 ⟨259, by decide, by omega⟩
  exact ⟨Nat.le_of_lt_succ hlt, hrange⟩

theorem distBin_range {D : Nat} (h1 : 1 ≤ D) (h32768 : D ≤ 32768) :
    distBin D ≤ 29 ∧ distBase.getD (distBin D) 0 ≤ D ∧ D < distBase.getD (distBin D + 1) 0 := by
  obtain ⟨hlt, hrange⟩ := bin_range (bs := distBase.drop 1) h1 ⟨32769, by decide, by omega⟩
  exact ⟨Nat.le_of_lt_succ hlt, hrange⟩

/-- No length bin is wider than its extra bits can tell. -/
theorem lenBase_succ_le {j : Nat} (h : j ≤ 28) : lenBase.getD (j + 1) 0 ≤ lenBase.getD j 0 + 2 ^ lenExtra.getD j 0 := by
  have hall : ∀ i : Fin 29, lenBase.getD (i + 1) 0 ≤ lenBase.getD i 0 + 2 ^ lenExtra.getD i 0 := by decide
  exact hall ⟨j, Nat.lt_succ_of_le h⟩

/-- No distance bin is wider than its extra bits can tell. -/
theorem distBase_succ_le {k : Nat} (h : k ≤ 29) :
    distBase.getD (k + 1) 0 ≤ distBase.getD k 0 + 2 ^ distExtra.getD k 0 := by
  have hall : ∀ i : Fin 30, distBase.getD (i + 1) 0 ≤ distBase.getD i 0 + 2 ^ distExtra.getD i 0 := by decide
  exact hall ⟨k, Nat.lt_succ_of_le h⟩

/-- Settles O50: the bin is the range that holds the value, and its width bounds the offset. -/
theorem binsCoverLengthsAndDistances : Obligations.BinsCoverLengthsAndDistances := by
  refine ⟨rfl, rfl, rfl, rfl, fun L h3 h258 => ?_, fun D h1 h32768 => ?_, by decide⟩
  · obtain ⟨hbin, hlow, hhigh⟩ := lenBin_range h3 h258
    have hwidth := lenBase_succ_le hbin
    exact ⟨hbin, hlow, hhigh, by omega⟩
  · obtain ⟨hbin, hlow, hhigh⟩ := distBin_range h1 h32768
    have hwidth := distBase_succ_le hbin
    exact ⟨hbin, hlow, hhigh, by omega⟩

end Sys2Proof.Machine
end

section
/-! PROOFS. The checksum unit computes the reference of R190: block by block, and for a whole buffer. -/

namespace Sys2Proof.Machine

variable {s : State}

theorem adlerRun_append (p : Nat × Nat) (d1 d2 : List Byte) : adlerRun p (d1 ++ d2) = adlerRun (adlerRun p d1) d2 := by
  induction d1 generalizing p with
  | nil => rfl
  | cons b bs ih => exact ih _

/-- R194: over a block the byte-by-byte sums are the plain and the weighted sum of its bytes. -/
theorem adlerRun_eq_sums {lo hi : Nat} (blk : List Byte) (hlo : lo < BASE) (hhi : hi < BASE) :
    adlerRun (lo, hi) blk =
      ((lo + blockSum blk) % BASE, (hi + blk.length * lo + blockWeighted blk) % BASE) := by
  induction blk generalizing lo hi with
  | nil => simp [adlerRun, blockSum, blockWeighted, Nat.mod_eq_of_lt hlo, Nat.mod_eq_of_lt hhi]
  | cons b bs ih =>
    have hpos : 0 < BASE := by decide
    rw [adlerRun, ih (Nat.mod_lt _ hpos) (Nat.mod_lt _ hpos)]
    have hstep : (lo + b.toNat) % BASE ≡ lo + b.toNat [MOD BASE] := Nat.mod_modEq _ _
    have hlow : (lo + b.toNat) % BASE + blockSum bs ≡ lo + blockSum (b :: bs) [MOD BASE] := by
      rw [blockSum, ← Nat.add_assoc]
      exact hstep.add_right _
    have hhigh : (hi + (lo + b.toNat) % BASE) % BASE + bs.length * ((lo + b.toNat) % BASE) + blockWeighted bs ≡
        hi + (b :: bs).length * lo + blockWeighted (b :: bs) [MOD BASE] := by
      have heq : hi + (b :: bs).length * lo + blockWeighted (b :: bs) =
          hi + (lo + b.toNat) + bs.length * (lo + b.toNat) + blockWeighted bs := by
        rw [blockWeighted, List.length_cons]
        ring
      rw [heq]
      exact (((Nat.mod_modEq _ _).trans (hstep.add_left _)).add (hstep.mul_left _)).add_right _
    exact Prod.ext hlow hhigh

/-- LO and HI as the reference has them. -/
def State.sums (s : State) : Nat × Nat := (s.lo.toNat, s.hi.toNat)

/-- The block step is the reference over the block (R194). -/
theorem blockStep_run (h : SumsReduced s) (blk : List Byte) : (blockStep blk s).sums = adlerRun s.sums blk := by
  obtain ⟨hlo, hhi⟩ := h
  obtain ⟨h1, h2⟩ := blockStep_sums (s := s) (blk := blk)
  rw [State.sums, h1, h2, State.sums, adlerRun_eq_sums blk hlo hhi]

theorem blockStep_reduced (blk : List Byte) : SumsReduced (blockStep blk s) := by
  obtain ⟨h1, h2⟩ := blockStep_sums (s := s) (blk := blk)
  exact ⟨h1 ▸ Nat.mod_lt _ (by decide), h2 ▸ Nat.mod_lt _ (by decide)⟩

/-- Block after block, from `pos` to the end of the buffer, is the reference over what remains (R192, R195). -/
theorem blocks_run (fuel pos : Nat) (h : SumsReduced s) (hf : s.len.toNat - pos ≤ fuel) :
    (blocks fuel pos s).sums = adlerRun s.sums (s.bufSlice pos (s.len.toNat - pos)) := by
  induction fuel generalizing pos s with
  | zero =>
    rw [Nat.le_zero.1 hf]
    rfl
  | succ fuel ih =>
    simp only [blocks]
    split
    · next hpos =>
      have hn : 1 ≤ min NMAX (s.len.toNat - pos) := Nat.le_min.2 ⟨by decide, by omega⟩
      have hle : min NMAX (s.len.toNat - pos) ≤ s.len.toNat - pos := Nat.min_le_right _ _
      generalize min NMAX (s.len.toNat - pos) = n at hn hle
      rw [ih (s := blockStep (s.bufSlice pos n) s) _ (blockStep_reduced _) (by change s.len.toNat - _ ≤ _; omega),
        blockStep_run h, ← adlerRun_append]
      have hsplit : s.len.toNat - pos = n + (s.len.toNat - (pos + n)) := by omega
      rw [hsplit, bufSlice_add]
      rfl
    · next hpos =>
      rw [Nat.sub_eq_zero_of_le (Nat.le_of_not_lt hpos)]
      rfl

/-- ADLER as a number (R37). -/
theorem adler_toNat (s : State) : s.adler.toNat = s.hi.toNat * 65536 + s.lo.toNat := by
  rw [State.adler, BitVec.toNat_append, ← Nat.shiftLeft_add_eq_or_of_lt s.lo.isLt, Nat.shiftLeft_eq]

/-- From its seed, the checksum of the whole buffer is its Adler-32 (R190 to R193). -/
theorem checksumRun_init_adler : (checksumRun (checksumInit s)).adler = adler32 s.buffer := by
  have hseed : SumsReduced (checksumInit s) := ⟨(by decide : 1 < BASE), (by decide : 0 < BASE)⟩
  have hrun : (checksumRun (checksumInit s)).sums = adlerRun (1, 0) s.buffer :=
    blocks_run _ 0 hseed (Nat.sub_le _ _)
  apply BitVec.eq_of_toNat_eq
  rw [adler32, ← hrun, BitVec.toNat_ofNat, Nat.mod_eq_of_lt, adler_toNat]
  · rfl
  · exact adler_toNat _ ▸ (checksumRun (checksumInit s)).adler.isLt

end Sys2Proof.Machine
end

section
/-! PROOFS. ZCOMP with OUT_CAP infinite, as bits: what each of its parts appends to the bit sequence of R180, and that the
two loops append the items that the match finder decides. -/

namespace Sys2Proof.Machine

variable {s t u : State} {b b' : List Bool}

/-! ### What an operation appends -/

/-- OUT_CAP is infinite and the pending bits are in range: every append succeeds. -/
structure Writable (s : State) : Prop where
  infinite : s.params.outCap = none
  reduced : BitsReduced s

theorem roomFor_of_infinite (h : s.params.outCap = none) (n : Nat) : s.RoomFor n := by
  intro cap hcap
  rw [h] at hcap
  cases hcap

theorem Writable.roomFor (h : Writable s) (n : Nat) : s.RoomFor n := roomFor_of_infinite h.infinite n

/-- From `s` to `t` the bits `b` were appended, and at most the match finder's own state changed besides. -/
structure Streamed (s : State) (b : List Bool) (t : State) : Prop where
  frame : t = { s with
    out := t.out, acc := t.acc, cnt := t.cnt, ht := t.ht, lzI := t.lzI, lzBest := t.lzBest, lzBestLoc := t.lzBestLoc }
  reduced : BitsReduced t
  bits : t.streamBits = s.streamBits ++ b

theorem Streamed.refl (h : BitsReduced s) : Streamed s [] s := ⟨rfl, h, (List.append_nil _).symm⟩

theorem Streamed.trans (h : Streamed s b t) (h' : Streamed t b' u) : Streamed s (b ++ b') u where
  frame := by rw [h'.frame, h.frame]
  reduced := h'.reduced
  bits := by rw [h'.bits, h.bits, List.append_assoc]

theorem Streamed.writable (hs : Writable s) (h : Streamed s b t) : Writable t :=
  ⟨by rw [h.frame]; exact hs.infinite, h.reduced⟩

/-- From `s` to `t` the bits `b` were appended, and nothing else changed. -/
structure Wrote (s : State) (b : List Bool) (t : State) : Prop extends Streamed s b t where
  only : t = s.restream t.out t.acc t.cnt

theorem Wrote.refl (h : BitsReduced s) : Wrote s [] s := ⟨.refl h, rfl⟩

theorem Wrote.trans (h : Wrote s b t) (h' : Wrote t b' u) : Wrote s (b ++ b') u :=
  ⟨h.toStreamed.trans h'.toStreamed, by rw [h'.only, h.only]; rfl⟩

/-- The position is not part of the output stream. -/
theorem Wrote.setPos (h : Wrote s b t) (i : Nat) : Wrote (s.setPos i) b (t.setPos i) where
  frame := by
    rw [h.only]
    rfl
  reduced := h.reduced
  bits := h.bits
  only := by
    rw [h.only]
    rfl

/-- An operation that appends the bits `b`, whatever writable state it starts from. -/
def Writes (b : List Bool) (f : State → Appended) : Prop :=
  ∀ s, Writable s → ∃ t, f s = .ok t ∧ Wrote s b t

/-- An operation that completed, and then another. -/
theorem bind_of_ok {x : Appended} (h : x = .ok t) (g : State → Appended) : x.bind g = g t := by rw [h]; rfl

theorem Writes.bind {f g : State → Appended} (hf : Writes b f) (hg : Writes b' g) :
    Writes (b ++ b') fun s => (f s).bind g := by
  intro s hs
  obtain ⟨t, ht, hst⟩ := hf s hs
  obtain ⟨u, hu, htu⟩ := hg t (hst.writable hs)
  exact ⟨u, (bind_of_ok ht g).trans hu, hst.trans htu⟩

theorem writeBits_writes (v : Word) {c : Nat} (hc : c ≤ 32) : Writes (numBits v.toNat c) (writeBits v c) := by
  intro s hs
  obtain ⟨hcnt, hacc⟩ := hs.reduced
  obtain ⟨t, ht, hframe, -, hlt, hbits⟩ := writeBits_ok (v := v) (c := c) (by omega) hacc (hs.roomFor _)
  have hcnt7 : t.cnt ≤ 7 := by
    rw [hframe]
    exact Nat.le_of_lt_succ (Nat.mod_lt _ (by decide))
  have honly : t = s.restream t.out t.acc t.cnt := by
    rw [hframe]
    rfl
  exact ⟨t, ht, ⟨by rw [hframe], ⟨hcnt7, hlt⟩, hbits⟩, honly⟩

/-! ### Symbols, extra bits, matches, the header -/

theorem putSym_writes (sym : Nat) : Writes (codeBits (symCode sym) (symLen sym)) (putSym sym) := by
  have h32 : symLen sym ≤ 32 := (symLen_range sym).2.trans (by decide)
  have h := writeBits_writes (BitVec.ofNat 32 (bitRev (symCode sym) (symLen sym))) h32
  rwa [numBits_bitRev_word h32] at h

theorem putExtra_writes (v : Nat) {n : Nat} (hn : n ≤ 32) : Writes (numBits v n) (putExtra v n) := by
  intro s hs
  unfold putExtra
  split
  · rw [← numBits_word hn v]
    exact writeBits_writes _ hn s hs
  · next h0 =>
    obtain rfl : n = 0 := by omega
    exact ⟨s, rfl, .refl hs.reduced⟩

theorem getD_le {l : List Nat} {m : Nat} (h : ∀ x ∈ l, x ≤ m) (j : Nat) : l.getD j 0 ≤ m := by
  rw [List.getD_eq_getElem?_getD]
  cases hj : l[j]? with
  | none => exact Nat.zero_le m
  | some x => exact h x (List.mem_of_getElem? hj)

theorem lenExtra_le (j : Nat) : lenExtra.getD j 0 ≤ 32 := getD_le (by decide) j

theorem distExtra_le (k : Nat) : distExtra.getD k 0 ≤ 32 := getD_le (by decide) k

/-- R100: a match is its length, then its distance. -/
theorem putMatch_writes (L D : Nat) : Writes (itemBits (.copy L D)) (putMatch L D) := by
  have hlength := (putSym_writes (257 + lenBin L)).bind
    (putExtra_writes (L - lenBase.getD (lenBin L) 0) (lenExtra_le (lenBin L)))
  have hbin := writeBits_writes (BitVec.ofNat 32 (bitRev (distBin D) 5)) (c := 5) (by decide)
  rw [numBits_bitRev_word (by decide)] at hbin
  have hdistance := hbin.bind (putExtra_writes (D - distBase.getD (distBin D) 0) (distExtra_le (distBin D)))
  have h := hlength.bind hdistance
  rw [← List.append_assoc] at h
  exact h

theorem putLiteral_writes (v : Byte) : Writes (itemBits (.lit v)) (putLiteral v) := putSym_writes v.toNat

/-- The header 78 5E, BFINAL 1 and BTYPE 01 (R91, R92). -/
theorem zlibHeader_writes : Writes ([0x78#8, 0x5E#8].flatMap byteBits ++ [true, true, false]) zlibHeader :=
  (writeBits_writes 0x78#32 (c := 8) (by decide)).bind <| (writeBits_writes 0x5E#32 (c := 8) (by decide)).bind <|
    (writeBits_writes 1#32 (c := 1) (by decide)).bind (writeBits_writes 1#32 (c := 2) (by decide))

/-! ### The match finder's state -/

/-- The probe writes BEST and BESTLOC only (R148). -/
theorem probeSlots_only (l : List Int) : ∃ best loc, probeSlots l s = s.setBest best loc := by
  induction l generalizing s with
  | nil => exact ⟨s.lzBest, s.lzBestLoc, rfl⟩
  | cons p ps ih =>
    simp only [probeSlots]
    split
    · exact ⟨s.lzBest, s.lzBestLoc, rfl⟩
    · split
      · obtain ⟨best, loc, h⟩ := ih (s := s.setBest (candLen s p s.lzI) (some p.toNat))
        exact ⟨best, loc, h⟩
      · exact ih

/-- HT after I was inserted into the bucket of its three bytes (R149). -/
def tableAfter (s : State) : HashTable :=
  setBucket s.ht (hashAt s s.lzI) (insertSlot s.lzQ (bucketOf s.lzQ s.ht (hashAt s s.lzI)) s.lzI)

/-- The probe at I (R148). -/
def probed (s : State) : State := probe (hashAt s s.lzI) s

/-- Deciding what to emit writes HT, BEST and BESTLOC, and neither I nor Q; the lazy check at most discards what the probe
found (R148 to R150). -/
theorem findMatch_eq : ∃ loc, (loc = none ∨ loc = (probed s).lzBestLoc) ∧
    findMatch s = (s.setHt (tableAfter s)).setBest (probed s).lzBest loc := by
  obtain ⟨best, loc, hprobe⟩ := probeSlots_only (s := s.setBest MIN_MATCH none) (bucketOf s.lzQ s.ht (hashAt s s.lzI))
  have hprobed : probed s = s.setBest best loc := hprobe
  have hinsert : insertPos (hashAt s s.lzI) (probed s) = (s.setHt (tableAfter s)).setBest best loc := by
    rw [hprobed]
    rfl
  rw [hprobed]
  change ∃ loc', _ ∧ lazyCheck (insertPos (hashAt s s.lzI) (probed s)) = _
  rw [hinsert]
  unfold lazyCheck
  split
  · exact ⟨none, .inl rfl, rfl⟩
  · exact ⟨loc, .inr rfl, rfl⟩

theorem findMatch_lzI : (findMatch s).lzI = s.lzI := by
  obtain ⟨loc, -, h⟩ := findMatch_eq (s := s)
  rw [h]
  rfl

/-- The match finder at I, then another position: nothing is appended. -/
theorem findMatch_streamed (h : BitsReduced s) (i : Nat) : Streamed s [] ((findMatch s).setPos i) := by
  obtain ⟨loc, -, hfind⟩ := findMatch_eq (s := s)
  rw [hfind]
  exact ⟨rfl, h, (List.append_nil _).symm⟩

theorem setPos_streamed (h : BitsReduced s) (i : Nat) : Streamed s [] (s.setPos i) :=
  ⟨rfl, h, (List.append_nil _).symm⟩

/-! ### The loops append the decided items -/

variable {o : List Byte} {a : BitVec 39} {c : Nat}

theorem itemAt_restream : itemAt (s.restream o a c) = itemAt s := by
  unfold itemAt
  rw [findMatch_restream]
  rfl

/-- The items depend on nothing of the output stream (R162). -/
theorem decidedItems_restream (n : Nat) : decidedItems n (s.restream o a c) = decidedItems n s := by
  induction n generalizing s with
  | zero => rfl
  | succ n ih =>
    simp only [decidedItems, itemAt_restream, findMatch_restream]
    have hmain := ih (s := (findMatch s).setPos (s.lzI + itemLen (itemAt s)))
    have htail := ih (s := s.setPos (s.lzI + 1))
    exact ite_congr rfl (fun _ => congrArg _ hmain) fun _ => ite_congr rfl (fun _ => congrArg _ htail) fun _ => rfl

/-- What `emitAt` emits of a state in which the match finder has decided (R151, R152, R155). -/
def emittedItem (s : State) : Item :=
  match s.lzBestLoc with
  | some p => .copy s.lzBest (s.lzI - p)
  | none => .lit (s.bufAt s.lzI)

theorem bufAt_findMatch : (findMatch s).bufAt = s.bufAt := by
  obtain ⟨loc, -, h⟩ := findMatch_eq (s := s)
  rw [h]
  rfl

theorem itemAt_eq : itemAt s = emittedItem (findMatch s) := by
  unfold itemAt emittedItem
  cases (findMatch s).lzBestLoc with
  | some p => simp only [findMatch_lzI]
  | none => simp only [findMatch_lzI, bufAt_findMatch]

/-- A literal, and I after it (R154, R155). -/
theorem putLiteral_wrote (hs : Writable s) (v : Byte) :
    ∃ t, putLiteral v s = .ok t ∧ Wrote (s.setPos (s.lzI + 1)) (itemBits (.lit v)) (t.setPos (t.lzI + 1)) := by
  obtain ⟨t, ht, hwrote⟩ := putLiteral_writes v s hs
  have hI : t.lzI = s.lzI := by
    rw [hwrote.only]
    rfl
  exact ⟨t, ht, by rw [hI]; exact hwrote.setPos _⟩

/-- Emitting appends the item's bits and advances over it (R151 to R155). -/
theorem emitAt_wrote (hs : Writable s) :
    ∃ t, emitAt s = .ok t ∧ Wrote (s.setPos (s.lzI + itemLen (emittedItem s))) (itemBits (emittedItem s)) t := by
  unfold emitAt emittedItem
  cases s.lzBestLoc with
  | some p =>
    obtain ⟨t, ht, hwrote⟩ := putMatch_writes s.lzBest (s.lzI - p) s hs
    have hpos : t.lzI + t.lzBest = s.lzI + s.lzBest := by
      rw [hwrote.only]
      rfl
    refine ⟨t.setPos (t.lzI + t.lzBest), ?_, hpos ▸ hwrote.setPos _⟩
    simp only [ht]
    rfl
  | none =>
    obtain ⟨t, ht, hwrote⟩ := putLiteral_wrote hs (s.bufAt s.lzI)
    refine ⟨t.setPos (t.lzI + 1), ?_, hwrote⟩
    simp only [ht]
    rfl

/-- One iteration of the main loop: the item decided at I, and I after it. -/
theorem emitAt_findMatch (hs : Writable s) :
    ∃ t, emitAt (findMatch s) = .ok t ∧
      Wrote ((findMatch s).setPos (s.lzI + itemLen (itemAt s))) (itemBits (itemAt s)) t := by
  have hw : Writable (findMatch s) := (findMatch_streamed hs.reduced (findMatch s).lzI).writable hs
  obtain ⟨t, ht, hwrote⟩ := emitAt_wrote hw
  rw [findMatch_lzI, ← itemAt_eq] at hwrote
  exact ⟨t, ht, hwrote⟩

/-- The probe never lowers BEST (R148). -/
theorem probeSlots_best_le (l : List Int) : s.lzBest ≤ (probeSlots l s).lzBest := by
  induction l generalizing s with
  | nil => exact Nat.le_refl _
  | cons p ps ih =>
    simp only [probeSlots]
    split
    · exact Nat.le_refl _
    · split
      · next h => exact h.2.trans (ih (s := s.setBest (candLen s p s.lzI) (some p.toNat)))
      · exact ih

theorem three_le_findMatch : 3 ≤ (findMatch s).lzBest := by
  obtain ⟨loc, -, h⟩ := findMatch_eq (s := s)
  rw [h]
  exact probeSlots_best_le (s := s.setBest MIN_MATCH none) (bucketOf s.lzQ s.ht (hashAt s s.lzI))

/-- I grows in every iteration (R153). -/
theorem itemLen_itemAt_pos (s : State) : 1 ≤ itemLen (itemAt s) := by
  have h3 := three_le_findMatch (s := s)
  rw [itemAt_eq, emittedItem]
  split
  · exact Nat.le_trans (by decide) h3
  · exact Nat.le_refl 1

theorem decidedItems_main {n : Nat} (h : s.lzI + 3 < s.len.toNat) : decidedItems (n + 1) s =
    itemAt s :: decidedItems n ((findMatch s).setPos (s.lzI + itemLen (itemAt s))) := if_pos h

theorem decidedItems_tail {n : Nat} (h : ¬s.lzI + 3 < s.len.toNat) (h' : s.lzI < s.len.toNat) :
    decidedItems (n + 1) s = .lit (s.bufAt s.lzI) :: decidedItems n (s.setPos (s.lzI + 1)) :=
  (if_neg h).trans (if_pos h')

theorem decidedItems_end {n : Nat} (h : s.len.toNat ≤ s.lzI) : decidedItems n s = [] := by
  cases n with
  | zero => rfl
  | succ n => exact (if_neg (by omega)).trans (if_neg (by omega))

/-- The main loop appends the items that are decided while `I + 3 < LEN`; `n` and `fuel` are any that suffice. -/
theorem mainLoop_streamed (fuel n : Nat) (hs : Writable s) (hf : s.len.toNat - s.lzI ≤ fuel)
    (hn : s.len.toNat - s.lzI ≤ n) :
    ∃ t items n', mainLoop fuel s = .ok t ∧ Streamed s (items.flatMap itemBits) t ∧
      ¬t.lzI + 3 < t.len.toNat ∧ t.len.toNat - t.lzI ≤ n' ∧ decidedItems n s = items ++ decidedItems n' t := by
  induction fuel generalizing s n with
  | zero => exact ⟨s, [], n, rfl, .refl hs.reduced, by omega, hn, rfl⟩
  | succ fuel ih =>
    by_cases hI : s.lzI + 3 < s.len.toNat
    · obtain ⟨n, rfl⟩ : ∃ m, n = m + 1 := ⟨n - 1, by omega⟩
      have hlen := itemLen_itemAt_pos s
      obtain ⟨u, hu, hwrote⟩ := emitAt_findMatch hs
      have hsu : Streamed s (itemBits (itemAt s)) u := (findMatch_streamed hs.reduced _).trans hwrote.toStreamed
      have hulen : u.len.toNat = s.len.toNat := by rw [hsu.frame]
      have hulzI : u.lzI = s.lzI + itemLen (itemAt s) := by
        rw [hwrote.only]
        rfl
      have hitems : decidedItems n u = decidedItems n ((findMatch s).setPos (s.lzI + itemLen (itemAt s))) := by
        rw [hwrote.only, decidedItems_restream]
      obtain ⟨t, items, n', ht, hut, hend, hn', hrest⟩ := ih n (hsu.writable hs) (by omega) (by omega)
      refine ⟨t, itemAt s :: items, n', ?_, ?_, hend, hn', ?_⟩
      · simp only [mainLoop, if_pos hI, hu]
        exact ht
      · rw [List.flatMap_cons]
        exact hsu.trans hut
      · rw [decidedItems_main hI, ← hitems, hrest, List.cons_append]
    · exact ⟨s, [], n, if_neg hI, .refl hs.reduced, hI, hn, rfl⟩

/-- The tail loop appends the literals that are left (R154). -/
theorem tailLoop_streamed (fuel n : Nat) (hs : Writable s) (hI : ¬s.lzI + 3 < s.len.toNat)
    (hf : s.len.toNat - s.lzI ≤ fuel) (hn : s.len.toNat - s.lzI ≤ n) :
    ∃ t, tailLoop fuel s = .ok t ∧ Streamed s ((decidedItems n s).flatMap itemBits) t := by
  induction fuel generalizing s n with
  | zero => exact ⟨s, rfl, decidedItems_end (s := s) (n := n) (by omega) ▸ .refl hs.reduced⟩
  | succ fuel ih =>
    by_cases hlt : s.lzI < s.len.toNat
    · obtain ⟨n, rfl⟩ : ∃ m, n = m + 1 := ⟨n - 1, by omega⟩
      obtain ⟨u, hu, hwrote⟩ := putLiteral_wrote hs (s.bufAt s.lzI)
      generalize hv : u.setPos (u.lzI + 1) = v at hwrote
      have hsv : Streamed s (itemBits (.lit (s.bufAt s.lzI))) v :=
        (setPos_streamed hs.reduced _).trans hwrote.toStreamed
      have hvlen : v.len.toNat = s.len.toNat := by rw [hsv.frame]
      have hvlzI : v.lzI = s.lzI + 1 := by
        rw [hwrote.only]
        rfl
      have hitems : decidedItems n v = decidedItems n (s.setPos (s.lzI + 1)) := by
        rw [hwrote.only, decidedItems_restream]
      obtain ⟨t, ht, hvt⟩ := ih n (hsv.writable hs) (by omega) (by omega) (by omega)
      refine ⟨t, ?_, ?_⟩
      · simp only [tailLoop, if_pos hlt, hu]
        exact (congrArg (tailLoop fuel) hv).trans ht
      · rw [decidedItems_tail hI hlt, List.flatMap_cons, ← hitems]
        exact hsv.trans hvt
    · exact ⟨s, if_neg hlt, decidedItems_end (s := s) (n := n) (by omega) ▸ .refl hs.reduced⟩

end Sys2Proof.Machine
end

section
/-! PROOFS. The items that the match finder decides expand to the buffer, every match legal (R147 to R155, R159). -/

namespace Sys2Proof.Machine

variable {s : State} {n : Nat}

/-! ### The offsets in HT -/

/-- Every offset in HT lies before position `n`. -/
def TableBelow (s : State) (n : Nat) : Prop :=
  ∀ h, ∀ p ∈ bucketOf s.lzQ s.ht h, p = -1 ∨ (0 ≤ p ∧ p < (n : Int))

/-- A cleared table holds no offset (R143). -/
theorem tableBelow_of_empty (h : s.ht = []) : TableBelow s n := by
  intro k p hp
  rw [h] at hp
  exact .inl (List.eq_of_mem_replicate hp)

theorem TableBelow.mono {m : Nat} (h : TableBelow s n) (hnm : n ≤ m) : TableBelow s m := by
  intro k p hp
  obtain rfl | ⟨h0, hlt⟩ := h k p hp
  · exact .inl rfl
  · exact .inr ⟨h0, by omega⟩

/-- The insertion adds I (R149). -/
theorem TableBelow.findMatch (h : TableBelow s s.lzI) : TableBelow (findMatch s) (s.lzI + 1) := by
  obtain ⟨loc, -, hfind⟩ := findMatch_eq (s := s)
  intro k p hp
  rw [hfind] at hp
  change p ∈ bucketOf s.lzQ (tableAfter s) k at hp
  rw [tableAfter, bucketOf_setBucket] at hp
  split at hp
  · obtain hold | rfl | rfl := mem_insertSlot hp
    · exact h.mono (Nat.le_succ _) _ p hold
    · exact .inl rfl
    · exact .inr (by omega)
  · exact h.mono (Nat.le_succ _) k p hp

/-! ### Match lengths (R147) -/

theorem matchLen_agrees {d : Nat → Byte} {p j limit t : Nat} (h : t < matchLen d p j limit) : d (p + t) = d (j + t) := by
  induction limit generalizing p j t with
  | zero => exact absurd h (Nat.not_lt_zero t)
  | succ limit ih =>
    simp only [matchLen] at h
    split at h
    · next heq =>
      cases t with
      | zero => exact heq
      | succ t =>
        have hnext := ih (Nat.lt_of_succ_lt_succ h)
        rwa [Nat.add_right_comm, Nat.add_right_comm j] at hnext
    · exact absurd h (Nat.not_lt_zero t)

theorem candLen_le (s : State) (p : Int) (j : Nat) : candLen s p j ≤ s.len.toNat - j ∧ candLen s p j ≤ MAX_MATCH :=
  Nat.le_min.1 (matchLen_le _ _ _ _)

theorem candLen_agrees {p j t : Nat} (h : t < candLen s p j) : s.bufAt (p + t) = s.bufAt (j + t) := matchLen_agrees h

/-! ### What the probe finds (R148) -/

/-- BESTLOC, where there is one, lies before I in the window, and BEST is its match length. -/
def FoundLegal (s : State) : Prop :=
  ∀ p, s.lzBestLoc = some p → p < s.lzI ∧ s.lzI - p ≤ MAX_DIST ∧ s.lzBest = candLen s p s.lzI

/-- A candidate that the probe accepts. -/
theorem foundLegal_of_candidate {p : Int} (h0 : 0 ≤ p) (hlt : p < (s.lzI : Int)) (hwindow : inWindow p s.lzI = true) :
    FoundLegal (s.setBest (candLen s p s.lzI) (some p.toNat)) := by
  intro q hq
  cases hq
  have hw : (s.lzI : Int) - 32768 < p := of_decide_eq_true hwindow
  refine ⟨?_, ?_, rfl⟩
  · rw [State.setBest_lzI]
    omega
  · rw [State.setBest_lzI, MAX_DIST]
    omega

theorem probeSlots_foundLegal {l : List Int} (hl : ∀ p ∈ l, p = -1 ∨ (0 ≤ p ∧ p < (s.lzI : Int))) (h : FoundLegal s) :
    FoundLegal (probeSlots l s) := by
  induction l generalizing s with
  | nil => exact h
  | cons p ps ih =>
    obtain ⟨hp, hps⟩ := List.forall_mem_cons.1 hl
    simp only [probeSlots]
    split
    · exact h
    · next hne =>
      split
      · next hbetter =>
        obtain ⟨h0, hlt⟩ := hp.resolve_left hne
        exact ih hps (foundLegal_of_candidate h0 hlt hbetter.1)
      · exact ih hps h

/-- The item decided at I: the byte there, or a match of at least 3 with an earlier position in the window. -/
theorem itemAt_cases (h : TableBelow s s.lzI) : itemAt s = .lit (s.bufAt s.lzI) ∨
    ∃ p : Nat, itemAt s = .copy (candLen s p s.lzI) (s.lzI - p) ∧ 3 ≤ candLen s p s.lzI ∧ p < s.lzI ∧
      s.lzI - p ≤ MAX_DIST := by
  have h3 := three_le_findMatch (s := s)
  obtain ⟨loc, hloc, hfind⟩ := findMatch_eq (s := s)
  rw [itemAt_eq, hfind]
  rw [hfind] at h3
  cases loc with
  | none => exact .inl rfl
  | some p =>
    have hfound : FoundLegal (probed s) := probeSlots_foundLegal (h _) fun _ hq => nomatch hq
    have hprobed : (probed s).lzI = s.lzI ∧ ∀ q j, candLen (probed s) q j = candLen s q j := by
      obtain ⟨best, loc, hprobe⟩ :=
        probeSlots_only (s := s.setBest MIN_MATCH none) (bucketOf s.lzQ s.ht (hashAt s s.lzI))
      rw [probed, probe, hprobe]
      exact ⟨rfl, fun _ _ => rfl⟩
    obtain ⟨hlt, hdist, hbest⟩ := hfound p (hloc.resolve_left nofun).symm
    rw [hprobed.1, hprobed.2] at hbest
    rw [hprobed.1] at hlt hdist
    rw [hbest] at h3 ⊢
    exact .inr ⟨p, rfl, h3, hlt, hdist⟩

/-! ### The items expand to the buffer -/

theorem bufSlice_succ (s : State) (n : Nat) : s.bufSlice 0 (n + 1) = s.bufSlice 0 n ++ [s.bufAt n] := by
  rw [bufSlice_add, Nat.zero_add]
  rfl

theorem getD_bufSlice {k : Nat} (h : k < n) : (s.bufSlice 0 n).getD k 0#8 = s.bufAt k := by
  simp [State.bufSlice, h]

/-- Copying from where the bytes agree continues the buffer. -/
theorem copyBack_bufSlice {D L : Nat} (hD : 1 ≤ D) (hDn : D ≤ n)
    (h : ∀ t, t < L → s.bufAt (n - D + t) = s.bufAt (n + t)) :
    copyBack D L (s.bufSlice 0 n) = s.bufSlice 0 (n + L) := by
  induction L generalizing n with
  | zero => rfl
  | succ L ih =>
    have hbyte : (s.bufSlice 0 n).getD ((s.bufSlice 0 n).length - D) 0#8 = s.bufAt n := by
      rw [length_bufSlice, getD_bufSlice (by omega)]
      exact h 0 (Nat.succ_pos L)
    rw [copyBack, hbyte, ← bufSlice_succ, ih (by omega), Nat.add_right_comm]
    · rfl
    · intro t ht
      have hnext := h (t + 1) (Nat.succ_lt_succ ht)
      rwa [show n - D + (t + 1) = n + 1 - D + t by omega, show n + (t + 1) = n + 1 + t by omega] at hnext

/-- The item decided at I ends within the buffer (R147). -/
theorem itemAt_within (h : TableBelow s s.lzI) (hI : s.lzI < s.len.toNat) :
    s.lzI + itemLen (itemAt s) ≤ s.len.toNat := by
  obtain hlit | ⟨p, hcopy, -⟩ := itemAt_cases h
  · rw [hlit]
    exact hI
  · have hfits := (candLen_le s p s.lzI).1
    rw [hcopy, itemLen]
    omega

/-- The item decided at I continues the bytes before I by the bytes it stands for, and is legal if it is a match (R159). -/
theorem itemAt_expands (h : TableBelow s s.lzI) (is : List Item) :
    expandItems (s.bufSlice 0 s.lzI) (itemAt s :: is) = expandItems (s.bufSlice 0 (s.lzI + itemLen (itemAt s))) is ∧
    (itemsLegal (s.lzI + itemLen (itemAt s)) is → itemsLegal s.lzI (itemAt s :: is)) := by
  obtain hlit | ⟨p, hcopy, h3, hlt, hdist⟩ := itemAt_cases h
  · rw [hlit, expandItems, itemLen, bufSlice_succ]
    exact ⟨rfl, id⟩
  · have hsource : s.lzI - (s.lzI - p) = p := by omega
    have hagree : ∀ t, t < candLen s p s.lzI → s.bufAt (s.lzI - (s.lzI - p) + t) = s.bufAt (s.lzI + t) := by
      rw [hsource]
      exact fun t ht => candLen_agrees ht
    rw [hcopy, expandItems, copyBack_bufSlice (by omega) (Nat.sub_le _ _) hagree]
    exact ⟨rfl, fun his => ⟨⟨h3, (candLen_le s p s.lzI).2, by omega, hdist, Nat.sub_le _ _⟩, his⟩⟩

/-- The match finder and the position are not part of the buffer. -/
theorem bufSlice_findMatch (i pos k : Nat) : ((findMatch s).setPos i).bufSlice pos k = s.bufSlice pos k := by
  obtain ⟨loc, -, h⟩ := findMatch_eq (s := s)
  rw [h]
  rfl

theorem len_findMatch : (findMatch s).len = s.len := by
  obtain ⟨loc, -, h⟩ := findMatch_eq (s := s)
  rw [h]
  rfl

/-- The items from I on continue the bytes before I to the whole buffer, every match legal. -/
theorem decidedItems_expand (n : Nat) (h : TableBelow s s.lzI) (hI : s.lzI ≤ s.len.toNat)
    (hn : s.len.toNat - s.lzI ≤ n) :
    expandItems (s.bufSlice 0 s.lzI) (decidedItems n s) = s.buffer ∧ itemsLegal s.lzI (decidedItems n s) := by
  induction n generalizing s with
  | zero =>
    have heq : s.lzI = s.len.toNat := by omega
    exact ⟨by rw [heq]; rfl, trivial⟩
  | succ n ih =>
    by_cases hmain : s.lzI + 3 < s.len.toNat
    · have hwithin := itemAt_within h (by omega)
      have hpos := itemLen_itemAt_pos s
      rw [decidedItems_main hmain]
      generalize hi : s.lzI + itemLen (itemAt s) = i at hwithin
      have htable : TableBelow ((findMatch s).setPos i) i := h.findMatch.mono (by omega)
      obtain ⟨hexp, hlegal⟩ := ih htable (len_findMatch (s := s) ▸ hwithin)
        (by rw [State.setPos_len, State.setPos_lzI, len_findMatch]; omega)
      obtain ⟨hitem, hitemLegal⟩ := itemAt_expands h (decidedItems n ((findMatch s).setPos i))
      rw [State.buffer, bufSlice_findMatch, bufSlice_findMatch, State.setPos_len, len_findMatch] at hexp
      rw [hi] at hitem hitemLegal
      exact ⟨hitem.trans hexp, hitemLegal hlegal⟩
    · by_cases htail : s.lzI < s.len.toNat
      · rw [decidedItems_tail hmain htail]
        obtain ⟨hexp, hlegal⟩ := ih (s := s.setPos (s.lzI + 1)) (h.mono (Nat.le_succ _)) htail
          (by change s.len.toNat - (s.lzI + 1) ≤ n; omega)
        refine ⟨?_, hlegal⟩
        rw [expandItems, ← bufSlice_succ]
        exact hexp
      · have heq : s.lzI = s.len.toNat := by omega
        rw [decidedItems_end (Nat.le_of_eq heq.symm)]
        exact ⟨by rw [heq]; rfl, trivial⟩

/-- From position 0 with an empty table, whatever Q is, the items are the whole buffer (R143, R146, R159). -/
theorem decidedItems_buffer (s : State) (q : Nat) :
    expandItems [] (decidedItems s.len.toNat { s with lzQ := q, ht := [], lzI := 0 }) = s.buffer ∧
    itemsLegal 0 (decidedItems s.len.toNat { s with lzQ := q, ht := [], lzI := 0 }) :=
  decidedItems_expand (s := { s with lzQ := q, ht := [], lzI := 0 }) _ (tableBelow_of_empty rfl) (Nat.zero_le _)
    (Nat.sub_le _ _)

end Sys2Proof.Machine
end

section
/-! PROOFS. ZCOMP as one command (R140): its parts in a row, with OUT_CAP infinite. -/

namespace Sys2Proof.Machine

variable {s t : State}

/-! ### The end of the stream -/

theorem numBits_of_zero (n : Nat) : numBits 0 n = List.replicate n false := by
  rw [numBits, List.eq_replicate_iff]
  exact ⟨by simp, by simp⟩

/-- The pending bits padded with zeros to a whole byte (R102, R185). -/
theorem byteBits_acc (h : BitsReduced s) :
    byteBits (s.acc.setWidth 8) = numBits s.acc.toNat s.cnt ++ List.replicate (8 - s.cnt) false := by
  obtain ⟨hcnt, hacc⟩ := h
  have hpad : numBits s.acc.toNat 8 = numBits s.acc.toNat (s.cnt + (8 - s.cnt)) := by rw [Nat.add_sub_cancel' (by omega)]
  rw [byteBits, BitVec.toNat_setWidth, numBits_mod, hpad, numBits_add, Nat.shiftRight_eq_div_pow, Nat.div_eq_of_lt hacc,
    numBits_of_zero]

/-- The final flush: the pending bits, padded, are all in OUT (R102, R158, R185). -/
theorem flushBits_final (hs : Writable s) : ∃ t pad, flushBits true s = .ok t ∧ pad < 8 ∧
    t.out.flatMap byteBits = s.streamBits ++ List.replicate pad false ∧
    t = { s with out := t.out, acc := 0#39, cnt := 0, fin := true } := by
  have hflush := flushBits_ok (f := true) (.inr (hs.roomFor 1))
  by_cases hcnt : 0 < s.cnt
  · rw [if_pos hcnt] at hflush
    refine ⟨_, 8 - s.cnt, hflush, by omega, ?_, rfl⟩
    change (s.out ++ [s.acc.setWidth 8]).flatMap byteBits = _
    rw [List.flatMap_append, List.flatMap_singleton, byteBits_acc hs.reduced, State.streamBits, List.append_assoc]
  · rw [if_neg hcnt] at hflush
    have hzero : s.cnt = 0 := by omega
    have hacc : s.acc = 0#39 := by
      have hlt := hs.reduced.2
      rw [hzero] at hlt
      exact BitVec.eq_of_toNat_eq (Nat.lt_one_iff.1 hlt)
    refine ⟨_, 0, hflush, by decide, ?_, ?_⟩
    · rw [State.streamBits, hzero]
      exact (List.append_nil _ |>.trans (List.append_nil _)).symm
    · change { s with fin := true } = { s with acc := 0#39, cnt := 0, fin := true }
      rw [← hacc, ← hzero]

/-- The trailer: the checksum of the buffer in LO and HI, and its four bytes (R103, R158). -/
theorem zlibTrailer_ok (hroom : s.RoomFor 4) : ∃ t, zlibTrailer s = .ok t ∧
    t.out = s.out ++ bigEndian (adler32 s.buffer) ∧ t.adler = adler32 s.buffer ∧
    t = { s with out := t.out, lo := t.lo, hi := t.hi } := by
  have hframe : SumFrame s (checksumRun (checksumInit s)) := by
    have h := checksumRun_frame (s := checksumInit s)
    unfold SumFrame at h ⊢
    rw [h]
    rfl
  have hout : (checksumRun (checksumInit s)).out = s.out := by rw [hframe]
  have hroomRun : (checksumRun (checksumInit s)).RoomFor 4 := by
    rw [hframe]
    exact hroom
  refine ⟨_, writeBe32_ok hroomRun, ?_, checksumRun_init_adler, ?_⟩
  · rw [State.setOut_out, hout, checksumRun_init_adler]
  · rw [hframe]
    rfl

/-! ### Bytes from bits -/

theorem byteBits_injective : Function.Injective byteBits := by
  intro a b h
  apply BitVec.eq_of_toNat_eq
  refine eq_of_testBit_eq_below a.isLt b.isLt fun k hk => ?_
  exact List.map_inj_left.1 h k (List.mem_range.2 hk)

/-- Bytes whose bits begin with those of other bytes begin with those bytes. -/
theorem bytes_of_bits {bs out : List Byte} {rest : List Bool}
    (h : out.flatMap byteBits = bs.flatMap byteBits ++ rest) :
    ∃ body, out = bs ++ body ∧ body.flatMap byteBits = rest := by
  induction bs generalizing out with
  | nil => exact ⟨out, rfl, h⟩
  | cons b bs ih =>
    cases out with
    | nil => simp [byteBits, numBits] at h
    | cons c out =>
      rw [List.flatMap_cons, List.flatMap_cons, List.append_assoc] at h
      obtain ⟨hbyte, hrest⟩ := List.append_inj h (by rw [length_byteBits, length_byteBits])
      obtain ⟨body, rfl, hbody⟩ := ih hrest
      exact ⟨body, by rw [byteBits_injective hbyte]; rfl, hbody⟩

/-! ### The command -/

/-- Where the main loop starts, but for the output stream: the clamped quality, an empty table, I = 0 (R141, R143, R146). -/
def zcompStart (s : State) : State := ((s.setQ (clampQuality s)).setHt []).setPos 0

theorem setQ_setHt_setPos (s : State) (q : Nat) :
    ((s.setQ q).setHt []).setPos 0 = { s with lzQ := q, ht := [], lzI := 0 } := rfl

theorem zcompStart_eq (s : State) : zcompStart s = { s with lzQ := clampQuality s, ht := [], lzI := 0 } :=
  setQ_setHt_setPos s _

theorem zcompStart_writable (hs : Writable s) : Writable (zcompStart s) := by
  rw [zcompStart_eq]
  exact ⟨hs.infinite, hs.reduced⟩

theorem zcompStart_streamBits (s : State) : (zcompStart s).streamBits = s.streamBits := by
  rw [zcompStart_eq]
  rfl

/-- The bits of the headers and the block (R91 to R101). -/
def zcompBits (s : State) : List Bool :=
  [0x78#8, 0x5E#8].flatMap byteBits ++ [true, true, false] ++
    (decidedItems s.len.toNat (zcompStart s)).flatMap itemBits ++ List.replicate 7 false

/-- ZCOMP up to its final flush: header, items, end-of-block (R140, R144, R146, R154, R158). -/
theorem zcompStream_block (hs : Writable s) : ∃ t, zcompStream s = (flushBits true t).bind zlibTrailer ∧
    Streamed (zcompStart s) (zcompBits s) t := by
  obtain ⟨u, hu, hheader⟩ := zlibHeader_writes ((s.setQ (clampQuality s)).setHt []) ⟨hs.infinite, hs.reduced⟩
  have hsu := hheader.setPos 0
  have hulen : u.len.toNat = s.len.toNat := by
    rw [hheader.only]
    rfl
  have hstart := zcompStart_writable hs
  obtain ⟨v, items, n, hv, huv, hend, hn, hitems⟩ :=
    mainLoop_streamed (s := u.setPos 0) u.len.toNat u.len.toNat (hsu.writable hstart) (Nat.sub_le _ _) (Nat.sub_le _ _)
  obtain ⟨w, hw, hvw⟩ :=
    tailLoop_streamed v.len.toNat n (huv.writable (hsu.writable hstart)) hend (Nat.sub_le _ _) hn
  have hsw := (hsu.toStreamed.trans huv).trans hvw
  obtain ⟨t, ht, hwt⟩ := putSym_writes 256 w (hsw.writable hstart)
  have hparts : zcompStream s = (flushBits true t).bind zlibTrailer :=
    (bind_of_ok hu _).trans <| (bind_of_ok hv _).trans <| (bind_of_ok hw _).trans (bind_of_ok ht _)
  have hdecided : decidedItems s.len.toNat (zcompStart s) = items ++ decidedItems n v := by
    rw [← hitems, hulen, hsu.only, decidedItems_restream]
    rfl
  refine ⟨t, hparts, ?_⟩
  rw [zcompBits, hdecided, List.flatMap_append, ← List.append_assoc]
  exact hsw.trans hwt.toStreamed

/-- The buffer depends on DATA, LEN, FB and what unwritten FB bytes hold. -/
theorem buffer_congr (hp : t.params = s.params) (hf : t.fb = s.fb) (hd : t.data = s.data) (hl : t.len = s.len) :
    t.buffer = s.buffer := by
  rw [State.buffer, State.bufSlice, bufAt_congr hp hf hd, hl]
  rfl

/-- The stream of ZCOMP: the header's two bytes, the bits of the block, padded, and the checksum of the buffer. -/
theorem zcompStream_ok (hs : Writable s) (hcnt : s.cnt = 0) : ∃ t body pad, zcompStream s = .ok t ∧
    t.out = s.out ++ [0x78#8, 0x5E#8] ++ body ++ bigEndian (adler32 s.buffer) ∧
    body.flatMap byteBits = [true, true, false] ++ (decidedItems s.len.toNat (zcompStart s)).flatMap itemBits ++
      List.replicate 7 false ++ List.replicate pad false ∧
    pad < 8 ∧ t.adler = adler32 s.buffer ∧ t.lzQ = clampQuality s ∧
    t = { s with
      out := t.out, acc := 0#39, cnt := 0, fin := true, lo := t.lo, hi := t.hi, ht := t.ht, lzI := t.lzI,
      lzQ := t.lzQ, lzBest := t.lzBest, lzBestLoc := t.lzBestLoc } := by
  obtain ⟨u, hparts, hsu⟩ := zcompStream_block hs
  have hu : Writable u := hsu.writable (zcompStart_writable hs)
  obtain ⟨v, pad, hv, hpad, hbits, hvframe⟩ := flushBits_final hu
  have hvs : v = { s with
      out := v.out, acc := 0#39, cnt := 0, fin := true, ht := u.ht, lzI := u.lzI, lzQ := clampQuality s,
      lzBest := u.lzBest, lzBestLoc := u.lzBestLoc } := by
    rw [hvframe, hsu.frame, zcompStart_eq]
  have hinfinite : v.params.outCap = none := by
    rw [hvs]
    exact hs.infinite
  have hbuffer : v.buffer = s.buffer := buffer_congr (by rw [hvs]) (by rw [hvs]) (by rw [hvs]) (by rw [hvs])
  obtain ⟨t, ht, hout, hadler, htframe⟩ := zlibTrailer_ok (roomFor_of_infinite hinfinite 4)
  have hstart : (zcompStart s).streamBits = s.out.flatMap byteBits := by
    rw [zcompStart_streamBits, State.streamBits, hcnt, numBits_zero, List.append_nil]
  have hvbits : v.out.flatMap byteBits = (s.out ++ [0x78#8, 0x5E#8]).flatMap byteBits ++
      ([true, true, false] ++ (decidedItems s.len.toNat (zcompStart s)).flatMap itemBits ++ List.replicate 7 false ++
        List.replicate pad false) := by
    rw [hbits, hsu.bits, hstart, zcompBits, List.flatMap_append]
    simp only [List.append_assoc]
  obtain ⟨body, hvout, hbody⟩ := bytes_of_bits hvbits
  refine ⟨t, body, pad, hparts.trans ((bind_of_ok hv _).trans ht), ?_, hbody, hpad, ?_, ?_, ?_⟩
  · rw [hout, hvout, hbuffer]
  · rw [hadler, hbuffer]
  · rw [htframe, hvs]
  · rw [htframe, hvs]

/-- Q as the signed minimum and maximum of R141. -/
theorem clampQuality_eq (s : State) : (clampQuality s : Int) = min (max s.quality.toInt 5) s.params.qmax := by
  have h5 : (5 : Int) ≤ max s.quality.toInt 5 := le_max_right _ _
  refine Int.toNat_of_nonneg (le_min ?_ ?_)
  · exact Int.le_trans (by decide) h5
  · exact Int.natCast_nonneg _

/-- No check of ZCOMP fails (R142). -/
theorem zcompCheck_none (hlen : s.len.toNat < LEN_LIMIT) (hcnt : s.cnt = 0) (hbuf : s.bufInFb) : zcompCheck s = none := by
  obtain ⟨-, hge⟩ | ⟨-, -, hne⟩ | ⟨-, -, -, hbad⟩ | ⟨hc, -⟩ := zcompCheck_cases (s := s)
  · exact absurd hlen (Nat.not_lt.2 hge)
  · exact absurd hcnt hne
  · exact absurd hbuf hbad
  · exact hc

/-- ZCOMP whose checks pass and whose stream finds room (R140). -/
theorem exec_zcomp_ok (hr : s.Ready) (hc : zcompCheck s = none) (ht : zcompStream s = .ok t) :
    exec .zcomp s = .next (forgetTable t) := by
  have hz : zcomp s = forgetTable t := by
    unfold zcomp
    rw [hc, ht]
  exact (command_ready hr).trans (congrArg Host.Outcome.next hz)

/-- Settles O56: the stream by its parts, and the items by the match finder's invariant. -/
theorem zcompWritesOneZlibStream : Obligations.ZcompWritesOneZlibStream := by
  intro s hi hr hlen hcnt hbuf hcap
  have hs : Writable s := ⟨hcap, (hi.streamInRange hr).2⟩
  obtain ⟨t, body, pad, ht, hout, hbody, hpad, hadler, hQ, hframe⟩ := zcompStream_ok hs hcnt
  have hexec := exec_zcomp_ok hr (zcompCheck_none hlen hcnt hbuf) ht
  have hstart : zcompStart s = { s with lzQ := (forgetTable t).lzQ, ht := [], lzI := 0 } := by
    rw [zcompStart_eq, ← hQ]
    rfl
  obtain ⟨hexpand, hlegal⟩ := decidedItems_buffer s (forgetTable t).lzQ
  rw [hstart] at hbody
  refine ⟨forgetTable t, _, body, pad, hexec, ?_, ?_, rfl, hexpand, hlegal, hout, hbody, hpad, congrArg some hadler⟩
  · rw [forgetTable_frame, hframe]
  · rw [← clampQuality_eq s, ← hQ]
    rfl

end Sys2Proof.Machine
end

section
/-! PROOFS. Unit RF (`40_row_filter.md`): the neighbour bytes, Paeth's choice, what the fixed filters and FLT.AUTO write,
row 0, the scanline recovered from its FilteredBuffer, and the frame of the FLT commands. -/

namespace Sys2Proof.Machine

variable {s t : State} {k : FilterKind} {i : Nat}

/-! ### Neighbour bytes (R122) -/

/-- After the first pixel, `a(i)` is the byte of the row BPP columns before. -/
theorem rowA_eq_rowX (h : s.bpp.toNat ≤ i) : rowA s i = rowX s (i - s.bpp.toNat) := by
  unfold rowA rowX
  rw [if_pos h, Nat.add_sub_assoc h]

theorem rowA_first_pixel (h : i < s.bpp.toNat) : rowA s i = 0#8 := if_neg (Nat.not_le.2 h)

theorem rowB_row_zero (h : s.row = 0#32) (i : Nat) : rowB s i = 0#8 := if_neg (not_not_intro h)

theorem rowC_zero (h : s.row = 0#32 ∨ i < s.bpp.toNat) : rowC s i = 0#8 :=
  if_neg fun ⟨hrow, hi⟩ => h.elim hrow (Nat.not_lt.2 hi)

/-- The range check of R71 on the previous row makes `SRC - STRIDE` a subtraction without borrow (log entry 14). -/
theorem stride_le_src (h0 : s.row ≠ 0#32) (hp : s.prevRowInPix) : s.stride.toNat ≤ s.src.toNat :=
  (hp.resolve_left h0).1

/-- Settles O35: where the model reads a byte, its address is the integer the rule forms. -/
theorem neighbourBytesAreTheSpecs : Obligations.NeighbourBytesAreTheSpecs := by
  intro s i
  refine ⟨rfl, fun hi => ⟨_, ?_, if_pos hi⟩, rowA_first_pixel, fun h0 hp => ⟨_, ?_, if_pos h0⟩,
    fun h => rowB_row_zero h i, fun h0 hp hi => ⟨_, ?_, if_pos ⟨h0, hi⟩⟩, rowC_zero⟩
  · omega
  · have := stride_le_src h0 hp
    omega
  · have := stride_le_src h0 hp
    omega

/-! ### Paeth (R123) -/

/-- How far a candidate is from `a + b - c`. -/
def paethDist (a b c q : Byte) : Nat := ((a.toNat : Int) + b.toNat - c.toNat - q.toNat).natAbs

/-- Which of the three Paeth picks: `a` unless another is strictly nearer, then `b` unless `c` is. -/
theorem paeth_cases (a b c : Byte) :
    (paeth a b c = a ∧ paethDist a b c a ≤ paethDist a b c b ∧ paethDist a b c a ≤ paethDist a b c c) ∨
    (paeth a b c = b ∧ paethDist a b c b < paethDist a b c a ∧ paethDist a b c b ≤ paethDist a b c c) ∨
    (paeth a b c = c ∧ paethDist a b c c < paethDist a b c a ∧ paethDist a b c c < paethDist a b c b) := by
  have hdef : paeth a b c =
      if paethDist a b c a ≤ paethDist a b c b ∧ paethDist a b c a ≤ paethDist a b c c then a
      else if paethDist a b c b ≤ paethDist a b c c then b else c := rfl
  rw [hdef]
  split
  · next ha => exact .inl ⟨rfl, ha⟩
  · split
    · next ha hb => exact .inr (.inl ⟨rfl, by omega, hb⟩)
    · next ha hb => exact .inr (.inr ⟨rfl, by omega, by omega⟩)

/-- Settles O36: in each of the three cases the byte picked is at least as near as the others, and nearer than those
before it. -/
theorem paethPicksTheNearest : Obligations.PaethPicksTheNearest := by
  intro a b c dist
  obtain ⟨h, hb, hc⟩ | ⟨h, ha, hc⟩ | ⟨h, ha, hb⟩ := paeth_cases a b c <;> rw [h]
  · exact ⟨.inl rfl, ⟨le_rfl, hb, hc⟩, fun _ => rfl, fun _ hne => absurd rfl hne⟩
  · exact ⟨.inr (.inl rfl), ⟨ha.le, le_rfl, hc⟩, fun he => absurd he ha.ne', fun _ _ => rfl⟩
  · exact ⟨.inr (.inr rfl), ⟨ha.le, hb.le, le_rfl⟩, fun he => absurd he ha.ne', fun he => absurd he hb.ne'⟩

/-- Where `b` and `c` are 0, `a` is at distance 0, so Paeth is Sub's predictor. -/
theorem paeth_zero_zero (a : Byte) : paeth a 0#8 0#8 = a := by
  have ha : paethDist a 0#8 0#8 a = 0 := by simp [paethDist]
  obtain ⟨h, -⟩ | ⟨-, h, -⟩ | ⟨-, h, -⟩ := paeth_cases a 0#8 0#8
  · exact h
  · exact absurd (ha ▸ h) (Nat.not_lt_zero _)
  · exact absurd (ha ▸ h) (Nat.not_lt_zero _)

/-! ### The commands of unit RF -/

/-- A fixed filter is the common body with its kind (R127 to R132). -/
theorem exec_fixedFilter (k : FilterKind) (s : State) : exec (fixedFilter k) s = command (filterRow fun _ => k) s := by
  cases k <;> rfl

/-- Every command of unit RF is a fixed filter, or FLT.AUTO. -/
theorem filters_cases {c : Instr} (h : c ∈ filters) : (∃ k, c = fixedFilter k) ∨ c = .fltAuto := by
  simp only [filters, List.mem_cons, List.not_mem_nil, or_false] at h
  obtain rfl | rfl | rfl | rfl | rfl | rfl := h
  · exact .inl ⟨.none, rfl⟩
  · exact .inl ⟨.sub, rfl⟩
  · exact .inl ⟨.up, rfl⟩
  · exact .inl ⟨.avg, rfl⟩
  · exact .inl ⟨.paeth, rfl⟩
  · exact .inr rfl

/-- With the checks passed, a fixed filter applies its kind. -/
theorem exec_fixedFilter_ok (hr : s.Ready) (hok : s.RowOk) (k : FilterKind) :
    exec (fixedFilter k) s = .next (applyKind k s) := by
  rw [exec_fixedFilter, command_ready hr, filterRow_ok hok]

/-- With the checks passed, FLT.AUTO applies `k*`. -/
theorem exec_fltAuto_ok (hr : s.Ready) (hok : s.RowOk) : exec .fltAuto s = .next (applyKind (autoKind s) s) :=
  (command_ready hr).trans (congrArg Host.Outcome.next (filterRow_ok hok autoKind))

/-! ### What `Apply` writes (R133) -/

/-- The cost of a byte in the second form of R126. -/
theorem byteCost_eq (v : Byte) : byteCost v = if v.toNat < 128 then v.toNat else 256 - v.toNat := by
  have := v.isLt
  unfold byteCost
  rw [BitVec.toInt_eq_toNat_cond]
  split <;> split <;> omega

theorem rowCost_eq (s : State) (k : FilterKind) : rowCost s k =
    ((List.range s.size.toNat).map fun i =>
      if (filtered s k i).toNat < 128 then (filtered s k i).toNat else 256 - (filtered s k i).toNat).sum := by
  simp only [rowCost, filteredRow, List.map_map, Function.comp_def, byteCost_eq]

/-- `Apply(k)` writes the FilteredBuffer of `k`, its cost and its number. -/
theorem applyKind_wroteRow (hi : s.Inv) (hok : s.RowOk) (k : FilterKind) :
    wroteRow s (applyKind k s) k (filtered s k) := by
  obtain ⟨-, -, -, hsize, -⟩ := hok
  exact ⟨rfl, fun _ => applyKind_fbAt_inside hi.fbWf, fun _ => applyKind_fbAt_outside,
    (applyKind_cost hsize).trans (rowCost_eq s k)⟩

theorem filtered_none (s : State) : filtered s .none = fun i => rowX s i := funext fun _ => BitVec.sub_zero _

/-- The shift inside Average is a division by 2 (R124). -/
theorem filtered_avg (s : State) :
    filtered s .avg = fun i => rowX s i - BitVec.ofNat 8 (((rowA s i).toNat + (rowB s i).toNat) / 2) :=
  funext fun _ => by rw [← Nat.shiftRight_one]; rfl

/-- Settles O37: `Apply` of each kind, its FilteredBuffer written out. -/
theorem fixedFiltersWriteTheirFormula : Obligations.FixedFiltersWriteTheirFormula := by
  intro s hi hr hok
  have hexec := exec_fixedFilter_ok hr hok
  have hrow := applyKind_wroteRow hi hok
  exact ⟨⟨_, hexec .none, filtered_none s ▸ hrow .none⟩, ⟨_, hexec .sub, hrow .sub⟩, ⟨_, hexec .up, hrow .up⟩,
    ⟨_, hexec .avg, filtered_avg s ▸ hrow .avg⟩, ⟨_, hexec .paeth, hrow .paeth⟩⟩

/-! ### FLT.AUTO (R131) -/

/-- `cheapest` answers one of its kinds, no other is cheaper, and none with a lower number costs the same, when the kinds
are listed in increasing number. -/
theorem cheapest_spec (cost : FilterKind → Nat) (best : FilterKind) (ks : List FilterKind)
    (hsorted : (best :: ks).Pairwise fun j j' => kindNum j < kindNum j') :
    cheapest cost best ks ∈ best :: ks ∧ ∀ j ∈ best :: ks, cost (cheapest cost best ks) ≤ cost j ∧
      (cost j = cost (cheapest cost best ks) → kindNum (cheapest cost best ks) ≤ kindNum j) := by
  induction ks generalizing best with
  | nil => simp [cheapest]
  | cons k ks ih =>
    obtain ⟨hbest, hrest⟩ := List.pairwise_cons.1 hsorted
    have hbk : kindNum best < kindNum k := hbest k List.mem_cons_self
    rw [cheapest]
    split
    · next hlt =>
      obtain ⟨hmem, hmin⟩ := ih k hrest
      refine ⟨List.mem_cons_of_mem _ hmem, fun j hj => ?_⟩
      obtain rfl | hj := List.mem_cons.1 hj
      · obtain ⟨hle, -⟩ := hmin k List.mem_cons_self
        exact ⟨by omega, by omega⟩
      · exact hmin j hj
    · next hge =>
      have hsub : (best :: ks).Sublist (best :: k :: ks) := (List.sublist_cons_self k ks).cons_cons best
      obtain ⟨hmem, hmin⟩ := ih best (hsorted.sublist hsub)
      refine ⟨hsub.subset hmem, fun j hj => ?_⟩
      obtain ⟨hle, hnum⟩ := hmin best List.mem_cons_self
      obtain rfl | hj := List.mem_cons.1 hj
      · exact ⟨hle, hnum⟩
      · obtain rfl | hj := List.mem_cons.1 hj
        · exact ⟨by omega, fun he => by have := hnum (by omega); omega⟩
        · exact hmin j (List.mem_cons_of_mem _ hj)

theorem mem_candidates : k ∈ candidates s ↔ s.fsel.getLsbD (kindNum k) = true := by
  cases k <;> simp [candidates]

theorem candidates_sorted (s : State) : (candidates s).Pairwise fun j j' => kindNum j < kindNum j' :=
  List.Pairwise.filter _ (by decide)

theorem kindNum_lt (k : FilterKind) : kindNum k < 5 := by cases k <;> decide

/-- Every bit of the mask is a kind's. -/
theorem exists_kindNum {n : Nat} (h : n < 5) : ∃ k, kindNum k = n := by
  match n, h with
  | 0, _ => exact ⟨.none, rfl⟩
  | 1, _ => exact ⟨.sub, rfl⟩
  | 2, _ => exact ⟨.up, rfl⟩
  | 3, _ => exact ⟨.avg, rfl⟩
  | 4, _ => exact ⟨.paeth, rfl⟩

/-- There is no candidate exactly when the mask is empty. -/
theorem candidates_eq_nil : candidates s = [] ↔ s.fsel.extractLsb' 0 5 = 0#5 := by
  rw [List.eq_nil_iff_forall_not_mem]
  simp only [mem_candidates, Bool.not_eq_true]
  constructor
  · intro h
    apply BitVec.eq_of_getLsbD_eq
    intro n hn
    obtain ⟨k, rfl⟩ := exists_kindNum hn
    simpa [hn] using h k
  · intro h k
    have := congrArg (BitVec.getLsbD · (kindNum k)) h
    simpa [kindNum_lt k] using this

/-- What `k*` is: None when there is no candidate, else a candidate of least cost, the least number among equals. -/
theorem autoKind_spec (s : State) :
    (candidates s = [] ∧ autoKind s = .none) ∨
    (autoKind s ∈ candidates s ∧ ∀ j ∈ candidates s, rowCost s (autoKind s) ≤ rowCost s j ∧
      (rowCost s j = rowCost s (autoKind s) → kindNum (autoKind s) ≤ kindNum j)) := by
  have hsorted := candidates_sorted s
  unfold autoKind
  cases hc : candidates s with
  | nil => exact .inl ⟨rfl, rfl⟩
  | cons best ks => exact .inr (cheapest_spec (rowCost s) best ks (hc ▸ hsorted))

/-- Settles O38: FLT.AUTO and the fixed filter of `k*` both apply `k*`. -/
theorem autoAppliesTheCheapestCandidate : Obligations.AutoAppliesTheCheapestCandidate := by
  intro s hi hr hok
  refine ⟨autoKind s, _, exec_fltAuto_ok hr hok, exec_fixedFilter_ok hr hok _, applyKind_wroteRow hi hok _, ?_⟩
  obtain ⟨hnil, hnone⟩ | ⟨hmem, hmin⟩ := autoKind_spec s
  · refine ⟨fun _ => hnone, fun hne => absurd (candidates_eq_nil.1 hnil) hne, fun j hj => ?_⟩
    exact absurd (hnil ▸ mem_candidates.2 hj) List.not_mem_nil
  · refine ⟨fun h0 => ?_, fun _ => mem_candidates.1 hmem, fun j hj => hmin j (mem_candidates.2 hj)⟩
    exact absurd (candidates_eq_nil.2 h0 ▸ hmem) List.not_mem_nil

/-! ### Row 0 -/

/-- Kinds that filter the row alike write the same bytes and cost. -/
theorem applyKind_of_filtered_eq {j : FilterKind} (h : filtered s k = filtered s j) :
    applyKind k s = { applyKind j s with kind := BitVec.ofNat 3 (kindNum k) } := by
  simp only [applyKind, rowCost, filteredRow, h]
  rfl

/-- On row 0, Up's predictor is None's (R129). -/
theorem filtered_up_row_zero (h : s.row = 0#32) : filtered s .up = filtered s .none :=
  funext fun i => congrArg (rowX s i - ·) (rowB_row_zero h i)

/-- On row 0, Paeth's predictor is Sub's (R132). -/
theorem filtered_paeth_row_zero (h : s.row = 0#32) : filtered s .paeth = filtered s .sub := by
  funext i
  show rowX s i - paeth (rowA s i) (rowB s i) (rowC s i) = rowX s i - rowA s i
  rw [rowB_row_zero h, rowC_zero (.inl h), paeth_zero_zero]

/-- Settles O39: the FilteredBuffers are the same, and `Apply` differs in KIND only. -/
theorem rowZeroUpIsNoneAndPaethIsSub : Obligations.RowZeroUpIsNoneAndPaethIsSub := by
  intro s hr hok h0
  have hexec := exec_fixedFilter_ok hr hok
  refine ⟨⟨_, hexec .none, (hexec .up).trans ?_⟩, ⟨_, hexec .sub, (hexec .paeth).trans ?_⟩⟩
  · exact congrArg Host.Outcome.next (applyKind_of_filtered_eq (filtered_up_row_zero h0))
  · exact congrArg Host.Outcome.next (applyKind_of_filtered_eq (filtered_paeth_row_zero h0))

/-! ### STRIDE on row 0 -/

section Stride

variable (h0 : s.row = 0#32) (v : Word)
include h0

/-- On row 0 no byte of the previous row is read, whatever STRIDE is. -/
theorem filtered_stride (k : FilterKind) : filtered { s with stride := v } k = filtered s k := by
  funext i
  have hb : rowB { s with stride := v } i = rowB s i := by
    rw [rowB_row_zero h0]
    exact rowB_row_zero (s := { s with stride := v }) h0 i
  have hc : rowC { s with stride := v } i = rowC s i := by
    rw [rowC_zero (.inl h0)]
    exact rowC_zero (s := { s with stride := v }) (.inl h0)
  show rowX s i - predict k (rowA s i) (rowB { s with stride := v } i) (rowC { s with stride := v } i) = _
  rw [hb, hc]
  rfl

/-- On row 0 the previous row's range is not checked (R71). -/
theorem rowCheck_stride : rowCheck { s with stride := v } = rowCheck s := by
  simp only [rowCheck, State.prevRowInPix, State.rowInPix, State.rowInFb, h0, true_or]

theorem rowCost_stride : rowCost { s with stride := v } = rowCost s := by
  funext k
  simp only [rowCost, filteredRow, filtered_stride h0]

theorem autoKind_stride : autoKind { s with stride := v } = autoKind s := by
  simp only [autoKind, rowCost_stride h0]
  rfl

theorem applyKind_stride (k : FilterKind) :
    applyKind k { s with stride := v } = { applyKind k s with stride := v } := by
  simp only [applyKind, filteredRow, filtered_stride h0, rowCost_stride h0]
  rfl

/-- A command whose choice of kind does not depend on STRIDE does not depend on it. -/
theorem filterRow_stride {sel : State → FilterKind} (hsel : sel { s with stride := v } = sel s) :
    filterRow sel { s with stride := v } = { filterRow sel s with stride := v } := by
  unfold filterRow
  rw [rowCheck_stride h0]
  cases rowCheck s with
  | none => exact hsel ▸ applyKind_stride h0 v _
  | some f =>
    show raise f { s with stride := v } = { raise f s with stride := v }
    unfold raise
    split <;> rfl

/-- Nor does it when the block is FAULTED. -/
theorem command_filterRow_stride {sel : State → FilterKind} (hsel : sel { s with stride := v } = sel s) :
    ∃ t, command (filterRow sel) s = .next t ∧
      command (filterRow sel) { s with stride := v } = .next { t with stride := v } := by
  by_cases hr : s.err = 0#4
  · refine ⟨_, command_ready hr, ?_⟩
    rw [command_ready (s := { s with stride := v }) hr, filterRow_stride h0 v hsel]
  · exact ⟨s, command_faulted hr, command_faulted (s := { s with stride := v }) hr⟩

end Stride

/-- Settles O40: the checks, the choice of kind and `Apply` are the same for every STRIDE. -/
theorem strideIsIrrelevantOnRowZero : Obligations.StrideIsIrrelevantOnRowZero := by
  intro s v h0 c hc
  obtain ⟨k, rfl⟩ | rfl := filters_cases hc
  · simp only [exec_fixedFilter]
    exact command_filterRow_stride h0 v rfl
  · exact command_filterRow_stride h0 v (autoKind_stride h0 v)

/-! ### The scanline recovered (R134) -/

/-- The byte is its filtered byte plus the predictor. -/
theorem rowX_eq_filtered_add (s : State) (k : FilterKind) (i : Nat) :
    rowX s i = filtered s k i + predict k (rowA s i) (rowB s i) (rowC s i) := (BitVec.sub_add_cancel _ _).symm

/-- Two rows with the same context and FilteredBuffer agree in every column, by induction over the columns: `a` is a byte
of the row at least one column before. -/
theorem rowX_unique {s' : State} (hbpp : 1 ≤ s.bpp.toNat) (hb : s'.bpp = s.bpp) {n : Nat}
    (hctx : ∀ i, i < n → rowB s' i = rowB s i ∧ rowC s' i = rowC s i)
    (hf : ∀ i, i < n → filtered s' k i = filtered s k i) : ∀ i, i < n → rowX s' i = rowX s i := by
  intro i
  induction i using Nat.strongRecOn with
  | ind i ih =>
    intro hi
    obtain ⟨hB, hC⟩ := hctx i hi
    have hA : rowA s' i = rowA s i := by
      by_cases h : s.bpp.toNat ≤ i
      · rw [rowA_eq_rowX h, rowA_eq_rowX (hb ▸ h), hb]
        exact ih _ (by omega) (by omega)
      · rw [rowA_first_pixel (Nat.not_le.1 h), rowA_first_pixel (hb ▸ Nat.not_le.1 h)]
    rw [rowX_eq_filtered_add s' k, rowX_eq_filtered_add s k, hf i hi, hA, hB, hC]

/-- The FilteredBuffer that a fixed filter leaves in FB. -/
theorem fixedFilter_fbAt (hi : s.Inv) (hr : s.Ready) (hok : s.RowOk) (h : exec (fixedFilter k) s = .next t)
    (hn : i < s.size.toNat) : t.fbAt (s.dst.toNat + i) = filtered s k i := by
  rw [exec_fixedFilter_ok hr hok] at h
  cases h
  exact applyKind_fbAt_inside hi.fbWf hn

/-- Settles O41: FB holds the FilteredBuffer, which with the context determines the row. -/
theorem filteringIsInvertible : Obligations.FilteringIsInvertible := by
  intro k s t hi hr hok h
  refine ⟨fun i hn => ?_, fun s' t' hi' hr' hok' h' hbpp hsize hctx hfb => ?_⟩
  · rw [fixedFilter_fbAt hi hr hok h hn]
    exact rowX_eq_filtered_add s k i
  · refine rowX_unique (k := k) hok.1 hbpp hctx fun i hn => ?_
    rw [← fixedFilter_fbAt hi hr hok h hn, ← fixedFilter_fbAt hi' hr' hok' h' (hsize ▸ hn)]
    exact hfb i hn

/-! ### The frame -/

/-- An FLT command changes nothing outside FB, COST, KIND and ERR, and of FB only `DST .. DST+SIZE-1`. -/
def RowFrame (s t : State) : Prop :=
  t = { s with fb := t.fb, cost := t.cost, kind := t.kind, err := t.err } ∧
  ∀ a, a < s.dst.toNat ∨ s.dst.toNat + s.size.toNat ≤ a → t.fbAt a = s.fbAt a

theorem RowFrame.refl (s : State) : RowFrame s s := ⟨rfl, fun _ _ => rfl⟩

theorem RowFrame.raise (f : CmdFault) : RowFrame s (raise f s) := by
  rw [raise_frame]
  exact ⟨rfl, fun _ _ => rfl⟩

theorem RowFrame.applyKind (k : FilterKind) : RowFrame s (applyKind k s) := ⟨rfl, fun _ => applyKind_fbAt_outside⟩

/-- Every command that filters a row stays in the frame: ignored, faulted, or applied. -/
theorem command_filterRow_frame {sel : State → FilterKind} (h : command (filterRow sel) s = .next t) : RowFrame s t := by
  obtain ⟨-, rfl⟩ | ⟨-, rfl⟩ := command_cases h
  · obtain ⟨f, -, hf⟩ | ⟨-, hk⟩ := filterRow_cases (s := s) sel
    · exact hf ▸ .raise f
    · exact hk ▸ .applyKind _
  · exact .refl _

/-- Settles O42: by the frame of the common body. -/
theorem filterCommandsFrame : Obligations.FilterCommandsFrame := by
  intro c s t hc h
  obtain ⟨hframe, hfb⟩ : RowFrame s t := by
    obtain ⟨k, rfl⟩ | rfl := filters_cases hc
    · exact command_filterRow_frame (exec_fixedFilter k s ▸ h)
    · exact command_filterRow_frame h
  exact ⟨hframe, pixAt_congr (by rw [hframe]) (by rw [hframe]), hfb⟩

end Sys2Proof.Machine
end

section
/-! PROOFS. Unit LZ (`41_lz77_huffman.md`), part by part: ZCOMP's checks, match lengths, buckets, the probe and the lazy
check. -/

namespace Sys2Proof.Machine

variable {s : State}

/-! ### The checks (R142) -/

/-- ZCOMP with a failing check (R142, R229). -/
theorem exec_zcomp_fault {f : CmdFault} (hr : s.Ready) (hc : zcompCheck s = some f) :
    exec .zcomp s = .next (s.setErr (faultCode f)) := by
  have hz : zcomp s = raise f s := by
    unfold zcomp
    rw [hc]
  exact (command_ready hr).trans (congrArg Host.Outcome.next (hz.trans (raise_ready hr)))

/-- Settles O51: each check fails where those before it pass, and its fault writes ERR. -/
theorem zcompChecksInOrder : Obligations.ZcompChecksInOrder := by
  refine fun s hr => ⟨fun hlen => ?_, fun hlen hcnt => ?_, fun hlen hcnt hbuf => ?_⟩
  · exact exec_zcomp_fault (f := .badCfg) hr (if_pos hlen)
  · exact exec_zcomp_fault (f := .notAligned) hr ((if_neg (Nat.not_le.2 hlen)).trans (if_pos hcnt))
  · refine exec_zcomp_fault (f := .badAddr) hr ((if_neg (Nat.not_le.2 hlen)).trans ?_)
    exact (if_neg (not_not_intro hcnt)).trans (if_pos (Nat.not_le.2 hbuf))

/-! ### Match lengths (R147) -/

/-- Bytes that agree within the limit are all counted. -/
theorem le_matchLen {d : Nat → Byte} {p j limit L : Nat} (hL : L ≤ limit)
    (h : ∀ t, t < L → d (p + t) = d (j + t)) : L ≤ matchLen d p j limit := by
  induction limit generalizing p j L with
  | zero => exact hL
  | succ limit ih =>
    cases L with
    | zero => exact Nat.zero_le _
    | succ L =>
      have hfirst : d p = d j := h 0 (Nat.succ_pos L)
      rw [matchLen, if_pos hfirst]
      refine Nat.succ_le_succ (ih (Nat.le_of_succ_le_succ hL) fun t ht => ?_)
      have hnext := h (t + 1) (Nat.succ_lt_succ ht)
      rwa [← Nat.add_assoc, Nat.add_right_comm, ← Nat.add_assoc, Nat.add_right_comm j] at hnext

/-- Settles O53: `matchLen` counts agreeing bytes only, and all of them. -/
theorem matchLenIsTheLongestAgreement : Obligations.MatchLenIsTheLongestAgreement :=
  fun _ _ _ _ _ => ⟨matchLen_le _ _ _ _, fun _ => candLen_agrees, fun _ => le_matchLen⟩

/-! ### Buckets (R45, R149) -/

/-- The live offsets of a packed bucket are those before its sentinels. -/
theorem liveCount_packed {live : List Int} (h : ∀ p ∈ live, 0 ≤ p) (n : Nat) :
    liveCount (live ++ List.replicate n (-1)) = live.length := by
  have hlive : live.countP (fun p => decide (p ≠ -1)) = live.length := by
    refine List.countP_eq_length.2 fun p hp => decide_eq_true ?_
    have := h p hp
    omega
  have hrest : (List.replicate n (-1 : Int)).countP (fun p => decide (p ≠ -1)) = 0 :=
    List.countP_eq_zero.2 fun p hp => by simp [List.eq_of_mem_replicate hp]
  rw [liveCount, List.countP_append, hlive, hrest, Nat.add_zero]

/-- Writing the slot after the first ones. -/
theorem set_packed (live : List Int) (n : Nat) (i : Int) :
    (live ++ List.replicate (n + 1) (-1)).set live.length i = live ++ [i] ++ List.replicate n (-1) := by
  rw [List.replicate_succ, List.set_append_right _ _ (Nat.le_refl _), Nat.sub_self, List.set_cons_zero, List.append_assoc,
    List.singleton_append]

/-- Insertion into a full bucket: its oldest `q` go (R149). -/
theorem insertSlot_full {q : Nat} {live : List Int} (i : Int) (hq : 1 ≤ q) (hlen : live.length = 2 * q)
    (h : ∀ p ∈ live, 0 ≤ p) : insertSlot q live i = live.drop q ++ [i] ++ List.replicate (q - 1) (-1) := by
  have hcount : liveCount live = 2 * q := by
    have := liveCount_packed h 0
    rwa [List.replicate_zero, List.append_nil, hlen] at this
  have hkept : (live.drop q).length = q := by
    rw [List.length_drop]
    omega
  have hset := set_packed (live.drop q) (q - 1) i
  rw [hkept, Nat.sub_add_cancel hq] at hset
  rw [insertSlot, if_pos hcount, hset]

/-- Insertion into a bucket with a free slot: the first one is taken (R149). -/
theorem insertSlot_free {q : Nat} {live : List Int} (i : Int) (hlen : live.length < 2 * q) (h : ∀ p ∈ live, 0 ≤ p) :
    insertSlot q (live ++ List.replicate (2 * q - live.length) (-1)) i =
      live ++ [i] ++ List.replicate (2 * q - (live.length + 1)) (-1) := by
  have hset := set_packed live (2 * q - (live.length + 1)) i
  rw [show 2 * q - (live.length + 1) + 1 = 2 * q - live.length by omega] at hset
  rw [insertSlot, liveCount_packed h, if_neg hlen.ne, hset]

/-- Settles O55: by whether the bucket is full. -/
theorem insertionKeepsTheBucketPacked : Obligations.InsertionKeepsTheBucketPacked := by
  intro q live i hq hle hlive _ kept
  by_cases hfull : live.length = 2 * q
  · have hkept : kept = live.drop q ++ [i] := congrArg (· ++ [i]) (if_pos hfull)
    have hlen : kept.length = q + 1 := by
      rw [hkept, List.length_append, List.length_drop, List.length_singleton]
      omega
    refine ⟨?_, by omega, fun _ => hlen⟩
    rw [hlen, hkept, hfull, Nat.sub_self, List.replicate_zero, List.append_nil, insertSlot_full i hq hfull hlive]
    congr 2
    omega
  · have hkept : kept = live ++ [i] := congrArg (· ++ [i]) (if_neg hfull)
    have hlen : kept.length = live.length + 1 := by rw [hkept, List.length_append, List.length_singleton]
    refine ⟨?_, by omega, fun h => absurd h hfull⟩
    rw [hlen, hkept, insertSlot_free i (by omega) hlive]

/-! ### The probe (R148) -/

/-- The offsets in a bucket's slots: those before the first -1 (R45, R148). -/
def offsets (slots : List Int) : List Int := slots.takeWhile (· ≠ -1)

theorem offsets_cons {p : Int} (h : p ≠ -1) (ps : List Int) : offsets (p :: ps) = p :: offsets ps :=
  List.takeWhile_cons_of_pos (decide_eq_true h)

theorem offsets_sentinel (ps : List Int) : offsets (-1 :: ps) = [] := rfl

/-- What the probe at I has found once it has seen the candidates `seen`: none in the window that matches three bytes, or
the longest in the window, the most recent among equals. -/
def BestOf (s : State) (seen : List Int) (best : Nat) (loc : Option Nat) : Prop :=
  (loc = none ∧ best = MIN_MATCH ∧ ∀ q ∈ seen, inWindow q s.lzI = true → candLen s q s.lzI < best) ∨
  ∃ p : Nat, loc = some p ∧ (p : Int) ∈ seen ∧ best = candLen s p s.lzI ∧ MIN_MATCH ≤ best ∧ inWindow p s.lzI = true ∧
    ∀ q ∈ seen, inWindow q s.lzI = true → candLen s q s.lzI ≤ best ∧ (candLen s q s.lzI = best → q ≤ p)

variable {seen : List Int} {best : Nat} {loc : Option Nat} {p : Int}

theorem BestOf.none : BestOf s [] MIN_MATCH none := .inl ⟨rfl, rfl, fun _ hq => nomatch hq⟩

theorem BestOf.min_le (h : BestOf s seen best loc) : MIN_MATCH ≤ best := by
  obtain ⟨-, rfl, -⟩ | ⟨_, -, -, -, hmin, -⟩ := h
  · exact Nat.le_refl _
  · exact hmin

theorem BestOf.le_best (h : BestOf s seen best loc) {q : Int} (hq : q ∈ seen) (hw : inWindow q s.lzI = true) :
    candLen s q s.lzI ≤ best := by
  obtain ⟨-, -, hall⟩ | ⟨_, -, -, -, -, -, hall⟩ := h
  · exact (hall q hq hw).le
  · exact (hall q hq hw).1

/-- A candidate in the window that is at least as long as BEST replaces it: it is the most recent so far. -/
theorem BestOf.accept (h : BestOf s seen best loc) (hlast : ∀ q ∈ seen, q < p) (h0 : 0 ≤ p)
    (hw : inWindow p s.lzI = true) (hle : best ≤ candLen s p s.lzI) :
    BestOf s (seen ++ [p]) (candLen s p s.lzI) (some p.toNat) := by
  obtain ⟨n, rfl⟩ := Int.eq_ofNat_of_zero_le h0
  refine .inr ⟨n, rfl, by simp, rfl, h.min_le.trans hle, hw, fun q hq hqw => ?_⟩
  obtain hq | hq := List.mem_append.1 hq
  · exact ⟨(h.le_best hq hqw).trans hle, fun _ => (hlast q hq).le⟩
  · obtain rfl := List.mem_singleton.1 hq
    exact ⟨Nat.le_refl _, fun _ => le_rfl⟩

/-- A candidate outside the window or shorter than BEST changes nothing. -/
theorem BestOf.reject (h : BestOf s seen best loc)
    (hp : ¬(inWindow p s.lzI = true ∧ best ≤ candLen s p s.lzI)) : BestOf s (seen ++ [p]) best loc := by
  have hshort : inWindow p s.lzI = true → candLen s p s.lzI < best := fun hw => Nat.lt_of_not_le fun hle => hp ⟨hw, hle⟩
  obtain ⟨hloc, hbest, hall⟩ | ⟨q, hloc, hmem, hbest, hmin, hw, hall⟩ := h
  · refine .inl ⟨hloc, hbest, List.forall_mem_append.2 ⟨hall, List.forall_mem_singleton.2 hshort⟩⟩
  · refine .inr ⟨q, hloc, List.mem_append_left _ hmem, hbest, hmin, hw,
      List.forall_mem_append.2 ⟨hall, List.forall_mem_singleton.2 fun hpw => ?_⟩⟩
    exact ⟨(hshort hpw).le, fun heq => absurd heq (hshort hpw).ne⟩

/-- The probe loop goes on from what it has found. -/
theorem probeSlots_bestOf (l : List Int) (hsorted : (seen ++ offsets l).Pairwise (· < ·))
    (h0 : ∀ p ∈ offsets l, 0 ≤ p) (h : BestOf s seen s.lzBest s.lzBestLoc) :
    BestOf s (seen ++ offsets l) (probeSlots l s).lzBest (probeSlots l s).lzBestLoc := by
  induction l generalizing s seen with
  | nil => simpa [offsets, probeSlots] using h
  | cons p ps ih =>
    by_cases hp : p = -1
    · subst hp
      simpa [offsets_sentinel, probeSlots] using h
    · rw [offsets_cons hp, List.append_cons] at hsorted ⊢
      rw [offsets_cons hp] at h0
      obtain ⟨hp0, hps0⟩ := List.forall_mem_cons.1 h0
      have hlast : ∀ q ∈ seen, q < p := fun q hq =>
        (List.pairwise_append.1 (List.pairwise_append.1 hsorted).1).2.2 q hq p (List.mem_singleton_self p)
      rw [probeSlots, if_neg hp]
      split
      · next hbetter =>
        exact ih (s := s.setBest (candLen s p s.lzI) (some p.toNat)) hsorted hps0 (h.accept hlast hp0 hbetter.1 hbetter.2)
      · next hworse => exact ih hsorted hps0 (h.reject hworse)

theorem probe_bestOf {h : Nat} (hsorted : (offsets (bucketOf s.lzQ s.ht h)).Pairwise (· < ·))
    (h0 : ∀ p ∈ offsets (bucketOf s.lzQ s.ht h), 0 ≤ p) :
    BestOf s (offsets (bucketOf s.lzQ s.ht h)) (probe h s).lzBest (probe h s).lzBestLoc :=
  probeSlots_bestOf (s := s.setBest MIN_MATCH none) (seen := []) _ hsorted h0 .none

theorem inWindow_iff {p : Int} {j : Nat} : inWindow p j = true ↔ (j : Int) - 32768 < p := decide_eq_true_iff

/-- The probe writes BEST and BESTLOC only (R148). -/
theorem probe_only (h : Nat) (s : State) : probe h s = s.setBest (probe h s).lzBest (probe h s).lzBestLoc := by
  obtain ⟨best, loc, hprobe⟩ := probeSlots_only (s := s.setBest MIN_MATCH none) (bucketOf s.lzQ s.ht h)
  rw [probe, hprobe]
  rfl

/-! ### The lazy check (R150) -/

theorem longerAhead_iff (b : List Int) : longerAhead s b = true ↔
    ∃ q ∈ offsets b, inWindow q (s.lzI + 1) = true ∧ s.lzBest < candLen s q (s.lzI + 1) := by
  induction b with
  | nil => simp [longerAhead, offsets]
  | cons p ps ih =>
    by_cases hp : p = -1
    · subst hp
      simp [longerAhead, offsets_sentinel]
    · rw [longerAhead, if_neg hp, offsets_cons hp, List.exists_mem_cons_iff]
      split
      · next h => exact iff_of_true rfl (.inl h)
      · next h => exact ih.trans (or_iff_right h).symm

/-- The lazy check changes at most BESTLOC. -/
theorem lazyCheck_eq : lazyCheck s = s.setBest s.lzBest
    (if longerAhead s (bucketOf s.lzQ s.ht (hashAt s (s.lzI + 1))) = true then none else s.lzBestLoc) := by
  unfold lazyCheck
  by_cases hahead : longerAhead s (bucketOf s.lzQ s.ht (hashAt s (s.lzI + 1))) = true
  · rw [if_pos hahead]
    by_cases hloc : s.lzBestLoc = none
    · rw [if_neg fun h => h.1 hloc, ← hloc]
      rfl
    · exact if_pos ⟨hloc, hahead⟩
  · rw [if_neg hahead]
    exact if_neg fun h => hahead h.2

/-- The state in which the lazy check is made: I probed for, then inserted (R148, R149). -/
def inserted (s : State) : State := (s.setHt (tableAfter s)).setBest (probed s).lzBest (probed s).lzBestLoc

/-- The slots that the lazy check reads: those of the bytes at I + 1, after the insertion. -/
def slotsAhead (s : State) : List Int := bucketOf s.lzQ (tableAfter s) (hashAt s (s.lzI + 1))

/-- What an iteration decides: the probe's match, unless a longer one is ahead. -/
theorem findMatch_eq_ite : findMatch s = (inserted s).setBest (probed s).lzBest
    (if longerAhead (inserted s) (slotsAhead s) = true then none else (probed s).lzBestLoc) := by
  have hinserted : insertPos (hashAt s s.lzI) (probed s) = inserted s := by
    rw [inserted, probed, probe_only]
    rfl
  have h : findMatch s = lazyCheck (inserted s) := by rw [← hinserted]; rfl
  rw [h, lazyCheck_eq]
  rfl

/-- When the match is discarded, if there was one (R150). -/
theorem findMatch_discards : (findMatch s).lzBestLoc = none ↔ (probed s).lzBestLoc = none ∨
    ∃ q ∈ offsets (slotsAhead s), inWindow q (s.lzI + 1) = true ∧ (probed s).lzBest < candLen s q (s.lzI + 1) := by
  rw [findMatch_eq_ite]
  refine ite_eq_left_iff.trans (or_iff_not_imp_left.symm.trans (or_comm.trans ?_))
  exact or_congr Iff.rfl (longerAhead_iff (s := inserted s) _)

/-- What the probe at I leaves, from a bucket whose offsets rise and lie before I (R148, R159). -/
theorem probe_found (h : Nat) (hsorted : (offsets (bucketOf s.lzQ s.ht h)).Pairwise (· < ·))
    (hbefore : ∀ p ∈ offsets (bucketOf s.lzQ s.ht h), 0 ≤ p ∧ p < (s.lzI : Int)) :
    ((probe h s).lzBestLoc = none ∧
      ∀ q ∈ offsets (bucketOf s.lzQ s.ht h), (s.lzI : Int) - 32768 < q → candLen s q s.lzI < 3) ∨
    ∃ p : Nat, (probe h s).lzBestLoc = some p ∧ (p : Int) ∈ offsets (bucketOf s.lzQ s.ht h) ∧
      (probe h s).lzBest = candLen s p s.lzI ∧ 3 ≤ (probe h s).lzBest ∧ (probe h s).lzBest ≤ 258 ∧
      1 ≤ s.lzI - p ∧ s.lzI - p ≤ 32767 ∧
      ∀ q ∈ offsets (bucketOf s.lzQ s.ht h), (s.lzI : Int) - 32768 < q →
        candLen s q s.lzI ≤ (probe h s).lzBest ∧ (candLen s q s.lzI = (probe h s).lzBest → q ≤ p) := by
  obtain ⟨hloc, hbest, hall⟩ | ⟨p, hloc, hmem, hbest, hmin, hw, hall⟩ :=
    probe_bestOf hsorted fun p hp => (hbefore p hp).1
  · exact .inl ⟨hloc, fun q hq hqw => (hall q hq (inWindow_iff.2 hqw)).trans_eq hbest⟩
  · have hp := (hbefore p hmem).2
    have hw := inWindow_iff.1 hw
    exact .inr ⟨p, hloc, hmem, hbest, hmin, hbest.trans_le (candLen_le s p s.lzI).2, by omega, by omega,
      fun q hq hqw => hall q hq (inWindow_iff.2 hqw)⟩

theorem findMatch_ht : (findMatch s).ht = tableAfter s := by
  rw [findMatch_eq_ite]
  rfl

/-- After the probe, deciding writes HT and BESTLOC only. -/
theorem findMatch_probed :
    findMatch s = { probed s with ht := (findMatch s).ht, lzBestLoc := (findMatch s).lzBestLoc } := by
  rw [findMatch_eq_ite, inserted, probed, probe_only]
  rfl

theorem findMatch_lzBestLoc : (findMatch s).lzBestLoc = none ∨ (findMatch s).lzBestLoc = (probed s).lzBestLoc := by
  obtain ⟨loc, hloc, hfind⟩ := findMatch_eq (s := s)
  rw [hfind]
  exact hloc

/-- Settles O54: the probe by its invariant, candidate by candidate; the insertion and the lazy check by what they are. -/
theorem probeFindsTheLongestMostRecent : Obligations.ProbeFindsTheLongestMostRecent := by
  constructor
  · intro s h cands hsorted hbefore t
    exact ⟨probe_only h s, probe_found h hsorted hbefore⟩
  · intro s h v u
    have hht : u.ht = tableAfter s := findMatch_ht
    refine ⟨findMatch_probed, fun k => ?_, findMatch_lzBestLoc, ?_⟩
    · rw [hht]
      exact bucketOf_setBucket _ _ _ _ _
    · rw [hht]
      refine findMatch_discards.trans (or_congr Iff.rfl (exists_congr fun q => and_congr Iff.rfl (and_congr ?_ Iff.rfl)))
      rw [inWindow_iff]
      push_cast
      rfl

end Sys2Proof.Machine
end

section
/-! PROOFS. What the match finder reads (R162): its decision at I from the table, the hashes and the candidates' lengths,
and the decided items from the buffer, Q and HASH3. -/

namespace Sys2Proof.Machine

variable {s s' : State}

/-! ### The decision at I -/

theorem probeSlots_congr {l : List Int} (hI : s'.lzI = s.lzI) (hbest : s'.lzBest = s.lzBest)
    (hloc : s'.lzBestLoc = s.lzBestLoc) (hcand : ∀ p ∈ l, p ≠ -1 → candLen s' p s.lzI = candLen s p s.lzI) :
    (probeSlots l s').lzBest = (probeSlots l s).lzBest ∧ (probeSlots l s').lzBestLoc = (probeSlots l s).lzBestLoc := by
  induction l generalizing s s' with
  | nil => exact ⟨hbest, hloc⟩
  | cons p ps ih =>
    obtain ⟨hp, hps⟩ := List.forall_mem_cons.1 hcand
    by_cases hne : p = -1
    · simp only [probeSlots, if_pos hne]
      exact ⟨hbest, hloc⟩
    · simp only [probeSlots, if_neg hne, hI, hbest, hp hne]
      split
      · exact ih (s := s.setBest _ _) (s' := s'.setBest _ _) hI rfl rfl hps
      · exact ih hI hbest hloc hps

theorem longerAhead_congr {l : List Int} (hI : s'.lzI = s.lzI) (hbest : s'.lzBest = s.lzBest)
    (hcand : ∀ p ∈ l, p ≠ -1 → candLen s' p (s.lzI + 1) = candLen s p (s.lzI + 1)) :
    longerAhead s' l = longerAhead s l := by
  induction l with
  | nil => rfl
  | cons p ps ih =>
    obtain ⟨hp, hps⟩ := List.forall_mem_cons.1 hcand
    by_cases hne : p = -1
    · simp only [longerAhead, if_pos hne]
    · simp only [longerAhead, if_neg hne, hI, hbest, hp hne, ih hps]

/-- `s'` gives the match finder at I what `s` gives it: position, Q and table, the two hashes, and candidates as long. -/
structure SameInput (s s' : State) : Prop where
  pos : s'.lzI = s.lzI
  quality : s'.lzQ = s.lzQ
  table : s'.ht = s.ht
  hash : hashAt s' s.lzI = hashAt s s.lzI
  hashAhead : hashAt s' (s.lzI + 1) = hashAt s (s.lzI + 1)
  cand : ∀ p ∈ bucketOf s.lzQ s.ht (hashAt s s.lzI), p ≠ -1 → candLen s' p s.lzI = candLen s p s.lzI
  candAhead : ∀ p ∈ slotsAhead s, p ≠ -1 → candLen s' p (s.lzI + 1) = candLen s p (s.lzI + 1)

theorem tableAfter_congr (h : SameInput s s') : tableAfter s' = tableAfter s := by
  rw [tableAfter, h.pos, h.quality, h.table, h.hash]
  rfl

theorem probed_congr (h : SameInput s s') :
    (probed s').lzBest = (probed s).lzBest ∧ (probed s').lzBestLoc = (probed s).lzBestLoc := by
  rw [probed, probe, h.pos, h.quality, h.table, h.hash]
  exact probeSlots_congr (s := s.setBest MIN_MATCH none) (s' := s'.setBest MIN_MATCH none) h.pos rfl rfl h.cand

/-- From the same input the match finder decides the same. -/
theorem findMatch_congr (h : SameInput s s') : (findMatch s').ht = (findMatch s).ht ∧
    (findMatch s').lzBest = (findMatch s).lzBest ∧ (findMatch s').lzBestLoc = (findMatch s).lzBestLoc := by
  obtain ⟨hbest, hloc⟩ := probed_congr h
  have hslots : slotsAhead s' = slotsAhead s := by
    rw [slotsAhead, h.pos, h.quality, tableAfter_congr h, h.hashAhead]
    rfl
  have hahead : longerAhead (inserted s') (slotsAhead s) = longerAhead (inserted s) (slotsAhead s) :=
    longerAhead_congr (s := inserted s) (s' := inserted s') h.pos hbest h.candAhead
  refine ⟨?_, ?_, ?_⟩
  · rw [findMatch_ht, findMatch_ht, tableAfter_congr h]
  · rw [findMatch_eq_ite, findMatch_eq_ite]
    exact hbest
  · simp only [findMatch_eq_ite, State.setBest_lzBestLoc, hslots, hahead, hloc]

/-! ### The decided items -/

/-- Agreement below `n` is enough for match lengths that end there. -/
theorem matchLen_congr {d d' : Nat → Byte} {n p j limit : Nat} (h : ∀ k, k < n → d' k = d k) (hp : p ≤ j)
    (hj : j + limit ≤ n) : matchLen d' p j limit = matchLen d p j limit := by
  induction limit generalizing p j with
  | zero => rfl
  | succ limit ih =>
    rw [matchLen, matchLen, h p (by omega), h j (by omega), ih (by omega) (by omega)]

/-- `s'` is at the same position of the same buffer as `s`, with the same Q, table and HASH3. -/
structure SameView (s s' : State) : Prop where
  pos : s'.lzI = s.lzI
  quality : s'.lzQ = s.lzQ
  table : s'.ht = s.ht
  len : s'.len = s.len
  fn : s'.params.hash = s.params.hash
  bytes : ∀ k, k < s.len.toNat → s'.bufAt k = s.bufAt k

theorem SameView.hashAt_eq (h : SameView s s') {k : Nat} (hk : k + 2 < s.len.toNat) : hashAt s' k = hashAt s k := by
  rw [hashAt, h.fn, h.bytes k (by omega), h.bytes (k + 1) (by omega), h.bytes (k + 2) hk]
  rfl

theorem SameView.candLen_eq (h : SameView s s') {p : Int} {j : Nat} (hj : j ≤ s.len.toNat) (hp : p < j) :
    candLen s' p j = candLen s p j := by
  rw [candLen, candLen, h.len]
  exact matchLen_congr h.bytes (by omega) (by omega)

/-- While `I + 3 < LEN` the match finder reads nothing but the buffer. -/
theorem SameView.sameInput (h : SameView s s') (ht : TableBelow s s.lzI) (hI : s.lzI + 3 < s.len.toNat) :
    SameInput s s' where
  pos := h.pos
  quality := h.quality
  table := h.table
  hash := h.hashAt_eq (by omega)
  hashAhead := h.hashAt_eq (by omega)
  cand := fun p hp hne => h.candLen_eq (by omega) ((ht _ p hp).resolve_left hne).2
  candAhead := fun p hp hne => by
    have hbelow := ht.findMatch (hashAt s (s.lzI + 1)) p
    rw [findMatch_eq_ite] at hbelow
    exact h.candLen_eq (by omega) ((hbelow hp).resolve_left hne).2

theorem SameView.itemAt_eq (h : SameView s s') (ht : TableBelow s s.lzI) (hI : s.lzI + 3 < s.len.toNat) :
    itemAt s' = itemAt s := by
  obtain ⟨-, hbest, hloc⟩ := findMatch_congr (h.sameInput ht hI)
  rw [itemAt, hloc, hbest, h.pos, h.bytes s.lzI (by omega)]
  rfl

theorem SameView.setPos (h : SameView s s') (i : Nat) : SameView (s.setPos i) (s'.setPos i) :=
  ⟨rfl, h.quality, h.table, h.len, h.fn, h.bytes⟩

theorem SameView.of_findMatch (h : SameView s s') (ht : TableBelow s s.lzI) (hI : s.lzI + 3 < s.len.toNat) :
    SameView (findMatch s) (findMatch s') := by
  obtain ⟨htable, -, -⟩ := findMatch_congr (h.sameInput ht hI)
  refine ⟨?_, ?_, htable, ?_, ?_, ?_⟩
  · rw [findMatch_lzI, findMatch_lzI, h.pos]
  · rw [findMatch_eq_ite, findMatch_eq_ite (s := s)]
    exact h.quality
  · rw [len_findMatch, len_findMatch, h.len]
  · rw [findMatch_eq_ite, findMatch_eq_ite (s := s)]
    exact h.fn
  · rw [len_findMatch, bufAt_findMatch, bufAt_findMatch]
    exact h.bytes

/-- From the same view the same items are decided (R162). -/
theorem SameView.decidedItems_eq (h : SameView s s') (ht : TableBelow s s.lzI) (n : Nat) :
    decidedItems n s' = decidedItems n s := by
  induction n generalizing s s' with
  | zero => rfl
  | succ n ih =>
    have hend : s'.lzI = s.lzI ∧ s'.len.toNat = s.len.toNat := ⟨h.pos, by rw [h.len]⟩
    by_cases hmain : s.lzI + 3 < s.len.toNat
    · have hpos := itemLen_itemAt_pos s
      have htable : TableBelow (findMatch s) (s.lzI + itemLen (itemAt s)) := ht.findMatch.mono (by omega)
      rw [decidedItems_main hmain, decidedItems_main (by omega), h.itemAt_eq ht hmain, h.pos,
        ih ((h.of_findMatch ht hmain).setPos (s.lzI + itemLen (itemAt s))) htable]
    · by_cases htail : s.lzI < s.len.toNat
      · rw [decidedItems_tail hmain htail, decidedItems_tail (by omega) (by omega), h.pos, h.bytes _ htail,
          ih (h.setPos (s.lzI + 1)) (ht.mono (Nat.le_succ _))]
      · rw [decidedItems_end (by omega), decidedItems_end (by omega)]

/-- Equal buffers agree byte by byte. -/
theorem bufAt_of_buffer_eq (h : s'.buffer = s.buffer) {k : Nat} (hk : k < s.len.toNat) : s'.bufAt k = s.bufAt k := by
  have hlen : s'.len.toNat = s.len.toNat := by rw [← length_buffer, h, length_buffer]
  rw [← getD_bufSlice (s := s) hk, ← getD_bufSlice (s := s') (n := s'.len.toNat) (hlen ▸ hk)]
  exact congrArg (·.getD k 0#8) h

end Sys2Proof.Machine
end

section
/-! PROOFS. OUT_CAP and ZCOMP (R63, R161): an operation that appends does what it does with OUT_CAP infinite, or stops at
the append that finds no room. -/

namespace Sys2Proof.Machine

variable {s t u : State} {f g : State → Appended}

/-! ### The same block with OUT_CAP infinite -/

/-- `s` with OUT_CAP infinite. -/
def State.uncap (s : State) : State := { s with params := { s.params with outCap := none } }

/-- `x` ended as `y` did, parameters apart, or stopped short of a byte that `y` appended. -/
def Truncates (x y : Appended) : Prop :=
  match x with
  | .ok t => y = .ok t.uncap
  | .error t => ∃ b, t.out ++ [b] <+: y.final.out

/-- OUT only grows, and OUT_CAP matters only to whether there is room (R63). -/
def Capped (f : State → Appended) : Prop := ∀ s, s.out <+: (f s).final.out ∧ Truncates (f s) (f s.uncap)

/-- An update of other state, for which OUT_CAP does not matter. -/
theorem Capped.ok {k : State → State} (hk : ∀ s, k s.uncap = (k s).uncap) (hout : ∀ s, (k s).out = s.out) :
    Capped fun s => .ok (k s) := fun s => ⟨(hout s).symm ▸ List.prefix_rfl, congrArg Except.ok (hk s)⟩

/-- No operation at all. -/
theorem Capped.refl : Capped .ok := .ok (k := id) (fun _ => rfl) fun _ => rfl

/-- Operations one after the other: the first that finds no room stops both. -/
theorem Capped.bind (hf : Capped f) (hg : Capped g) : Capped fun s => (f s).bind g := by
  have hgrow : ∀ x : Appended, x.final.out <+: (Appended.final (x.bind g)).out := by
    rintro (t | t)
    · exact List.prefix_rfl
    · exact (hg t).1
  intro s
  obtain ⟨hout, htrunc⟩ := hf s
  refine ⟨hout.trans (hgrow (f s)), ?_⟩
  show Truncates ((f s).bind g) ((f s.uncap).bind g)
  cases hfs : f s with
  | ok t =>
    rw [hfs] at htrunc
    rw [show f s.uncap = .ok t.uncap from htrunc]
    exact (hg t).2
  | error t =>
    rw [hfs] at htrunc
    obtain ⟨b, hb⟩ := htrunc
    exact ⟨b, hb.trans (hgrow _)⟩

/-! ### The operations that append -/

theorem outAppend_capped (b : Byte) : Capped (outAppend b) := by
  intro s
  have hinfinite : outAppend b s.uncap = .ok (s.uncap.setOut (s.out ++ [b])) := outAppend_ok nofun
  by_cases hfull : s.params.outCap = some s.out.length
  · rw [outAppend_full hfull, hinfinite]
    exact ⟨List.prefix_rfl, b, List.prefix_rfl⟩
  · rw [outAppend_ok hfull, hinfinite]
    exact ⟨List.prefix_append _ _, rfl⟩

theorem outAppendList_capped (bs : List Byte) : Capped (outAppendList bs) := by
  induction bs with
  | nil => exact .refl
  | cons b bs ih =>
    intro s
    rw [outAppendList_cons, outAppendList_cons]
    exact (outAppend_capped b).bind ih s

theorem drain_capped (fuel : Nat) : Capped (drain fuel) := by
  induction fuel with
  | zero => exact .refl
  | succ fuel ih =>
    have hrest : Capped fun s => drain fuel (s.setBits (s.acc >>> 8) (s.cnt - 8)) :=
      (Capped.ok (k := fun s => s.setBits (s.acc >>> 8) (s.cnt - 8)) (fun _ => rfl) fun _ => rfl).bind ih
    intro s
    rw [drain_succ, drain_succ]
    by_cases h8 : 8 ≤ s.cnt
    · rw [if_pos h8, if_pos (show 8 ≤ s.uncap.cnt from h8)]
      exact (outAppend_capped _).bind hrest s
    · rw [if_neg h8, if_neg (show ¬8 ≤ s.uncap.cnt from h8)]
      exact ⟨List.prefix_rfl, rfl⟩

theorem writeBits_capped (v : Word) (c : Nat) : Capped (writeBits v c) := fun s =>
  drain_capped (s.cnt + c) (s.setBits (s.acc + (BitVec.ofNat 39 (v.toNat % 2 ^ c) <<< s.cnt)) (s.cnt + c))

theorem markFinal_capped (f : Bool) : Capped fun s => .ok (markFinal f s) :=
  .ok (by cases f <;> exact fun _ => rfl) (by cases f <;> exact fun _ => rfl)

theorem flushBits_capped (f : Bool) : Capped (flushBits f) := by
  intro s
  rw [flushBits_eq, flushBits_eq]
  by_cases hcnt : 0 < s.cnt
  · rw [if_pos hcnt, if_pos (show 0 < s.uncap.cnt from hcnt)]
    have hclear : Capped fun s => .ok (s.setBits 0#39 0) := .ok (fun _ => rfl) fun _ => rfl
    exact (outAppend_capped _).bind (hclear.bind (markFinal_capped f)) s
  · rw [if_neg hcnt, if_neg (show ¬0 < s.uncap.cnt from hcnt)]
    exact markFinal_capped f s

theorem putSym_capped (sym : Nat) : Capped (putSym sym) := writeBits_capped _ _

theorem putExtra_capped (v n : Nat) : Capped (putExtra v n) := by
  by_cases hn : 0 < n
  · have h : putExtra v n = writeBits (BitVec.ofNat 32 v) n := funext fun _ => if_pos hn
    exact h ▸ writeBits_capped _ _
  · have h : putExtra v n = .ok := funext fun _ => if_neg hn
    exact h ▸ .refl

theorem putMatch_capped (L D : Nat) : Capped (putMatch L D) :=
  ((putSym_capped _).bind (putExtra_capped _ _)).bind ((writeBits_capped _ _).bind (putExtra_capped _ _))

/-! ### ZCOMP, part by part -/

/-- The match finder does not look at OUT_CAP. -/
theorem findMatch_uncap (s : State) : findMatch s.uncap = (findMatch s).uncap := by
  have hinput : SameInput s s.uncap := ⟨rfl, rfl, rfl, rfl, rfl, fun _ _ _ => rfl, fun _ _ _ => rfl⟩
  obtain ⟨hht, hbest, hloc⟩ := findMatch_congr hinput
  obtain ⟨loc, -, h⟩ := findMatch_eq (s := s)
  obtain ⟨loc', -, h'⟩ := findMatch_eq (s := s.uncap)
  rw [h, h'] at hht hbest hloc ⊢
  rw [State.setBest_ht, State.setBest_ht, State.setHt_ht, State.setHt_ht] at hht
  rw [State.setBest_lzBest, State.setBest_lzBest] at hbest
  rw [State.setBest_lzBestLoc, State.setBest_lzBestLoc] at hloc
  rw [hht, hbest, hloc]
  rfl

theorem findMatch_out (s : State) : (findMatch s).out = s.out := by
  obtain ⟨loc, -, h⟩ := findMatch_eq (s := s)
  rw [h]
  rfl

theorem emitAt_match {p : Nat} (h : s.lzBestLoc = some p) : emitAt s =
    (putMatch s.lzBest (s.lzI - p) s).bind fun t => .ok (t.setPos (t.lzI + t.lzBest)) := by
  unfold emitAt
  rw [h]
  rfl

theorem emitAt_literal (h : s.lzBestLoc = none) : emitAt s =
    (putLiteral (s.bufAt s.lzI) s).bind fun t => .ok (t.setPos (t.lzI + 1)) := by
  unfold emitAt
  rw [h]
  rfl

theorem emitAt_capped : Capped emitAt := by
  intro s
  cases hloc : s.lzBestLoc with
  | some p =>
    rw [emitAt_match hloc, emitAt_match (s := s.uncap) hloc]
    have hpos : Capped fun t => .ok (t.setPos (t.lzI + t.lzBest)) := .ok (fun _ => rfl) fun _ => rfl
    exact (putMatch_capped _ _).bind hpos s
  | none =>
    rw [emitAt_literal hloc, emitAt_literal (s := s.uncap) hloc]
    have hpos : Capped fun t => .ok (t.setPos (t.lzI + 1)) := .ok (fun _ => rfl) fun _ => rfl
    exact (putSym_capped _).bind hpos s

theorem mainLoop_capped (fuel : Nat) : Capped (mainLoop fuel) := by
  induction fuel with
  | zero => exact .refl
  | succ fuel ih =>
    intro s
    simp only [mainLoop]
    by_cases hI : s.lzI + 3 < s.len.toNat
    · rw [if_pos hI, if_pos (show s.uncap.lzI + 3 < s.uncap.len.toNat from hI)]
      exact ((Capped.ok findMatch_uncap findMatch_out).bind emitAt_capped).bind ih s
    · rw [if_neg hI, if_neg (show ¬s.uncap.lzI + 3 < s.uncap.len.toNat from hI)]
      exact ⟨List.prefix_rfl, rfl⟩

theorem tailLoop_capped (fuel : Nat) : Capped (tailLoop fuel) := by
  induction fuel with
  | zero => exact .refl
  | succ fuel ih =>
    have hrest : Capped fun t => tailLoop fuel (t.setPos (t.lzI + 1)) :=
      (Capped.ok (k := fun t => t.setPos (t.lzI + 1)) (fun _ => rfl) fun _ => rfl).bind ih
    intro s
    simp only [tailLoop]
    by_cases hI : s.lzI < s.len.toNat
    · rw [if_pos hI, if_pos (show s.uncap.lzI < s.uncap.len.toNat from hI)]
      exact (putSym_capped (s.bufAt s.lzI).toNat).bind hrest s
    · rw [if_neg hI, if_neg (show ¬s.uncap.lzI < s.uncap.len.toNat from hI)]
      exact ⟨List.prefix_rfl, rfl⟩

theorem zlibHeader_capped : Capped zlibHeader :=
  (writeBits_capped _ _).bind ((writeBits_capped _ _).bind ((writeBits_capped _ _).bind (writeBits_capped _ _)))

theorem blocks_uncap (fuel pos : Nat) (s : State) : blocks fuel pos s.uncap = (blocks fuel pos s).uncap := by
  induction fuel generalizing pos s with
  | zero => rfl
  | succ fuel ih =>
    simp only [blocks]
    by_cases hpos : pos < s.len.toNat
    · rw [if_pos hpos, if_pos (show pos < s.uncap.len.toNat from hpos)]
      exact ih _ (blockStep (s.bufSlice pos (min NMAX (s.len.toNat - pos))) s)
    · rw [if_neg hpos, if_neg (show ¬pos < s.uncap.len.toNat from hpos)]

theorem zlibTrailer_capped : Capped zlibTrailer := by
  have hsum : Capped fun s => .ok (checksumRun (checksumInit s)) :=
    .ok (fun s => blocks_uncap _ _ (checksumInit s)) fun s => by
      rw [show (checksumRun (checksumInit s)).out = (checksumInit s).out by rw [checksumRun_frame]]
      rfl
  exact hsum.bind fun s => outAppendList_capped (bigEndian s.adler) s

/-- ZCOMP's stream is what it is with OUT_CAP infinite, cut where OUT is full. -/
theorem zcompStream_capped : Capped zcompStream := by
  have hstart : Capped fun s => .ok ((s.setQ (clampQuality s)).setHt []) := .ok (fun _ => rfl) fun _ => rfl
  have hmain : Capped fun s => mainLoop s.len.toNat (s.setPos 0) := fun s => mainLoop_capped s.len.toNat (s.setPos 0)
  have htail : Capped fun s => tailLoop s.len.toNat s := fun s => tailLoop_capped s.len.toNat s
  exact hstart.bind <| zlibHeader_capped.bind <| hmain.bind <| htail.bind <| (putSym_capped 256).bind <|
    (flushBits_capped true).bind zlibTrailer_capped

/-! ### The command -/

/-- The invariant does not ask for a finite OUT_CAP. -/
theorem State.Inv.uncap (hi : s.Inv) : s.uncap.Inv := by
  obtain ⟨hpix, hpixMax, hfb, hfbMax, -, hq⟩ := hi.legal
  exact { hi with legal := ⟨hpix, hpixMax, hfb, hfbMax, Nat.two_pow_pos 32, hq⟩, outFits := nofun }

/-- ZCOMP and the same command with OUT_CAP infinite, which leaves `u`: it ends in `u`, OUT_CAP apart, or fills OUT and
stops short of a byte of `u`. -/
def ZcompEnds (s u : State) : Prop :=
  (exec .zcomp s = .next { u with params := s.params } ∧ (∀ cap ∈ s.params.outCap, u.out.length ≤ cap)) ∨
  ∃ t b, exec .zcomp s = .next t ∧ t.err = 6#4 ∧ s.params.outCap = some t.out.length ∧ s.out <+: t.out ∧
    t.out ++ [b] <+: u.out

/-- Every ZCOMP whose checks pass ends in one of these two ways (R161). -/
theorem zcompEnds (hi : s.Inv) (hr : s.Ready) (hlen : s.len.toNat < LEN_LIMIT) (hcnt : s.cnt = 0) (hbuf : s.bufInFb)
    (hu : exec .zcomp s.uncap = .next u) : ZcompEnds s u := by
  have hw : Writable s.uncap := ⟨rfl, (hi.streamInRange hr).2⟩
  have hc : zcompCheck s = none := zcompCheck_none hlen hcnt hbuf
  obtain ⟨v, -, -, hv, -⟩ := zcompStream_ok hw hcnt
  obtain rfl : u = forgetTable v := by
    have hexec := exec_zcomp_ok (s := s.uncap) hr hc hv
    rw [hu] at hexec
    exact Host.Outcome.next.inj hexec
  have hends := (zcompStream_capped s).2
  have hexec : exec .zcomp s = .next (zcomp s) := command_ready hr
  obtain ⟨f, hf, -⟩ | ⟨-, t, ht, hframe, hz⟩ | ⟨-, t, ht, ⟨hframe, hgrown⟩, hfull, hz⟩ := zcomp_cases (s := s)
  · exact absurd (hc.symm.trans hf) nofun
  · rw [ht] at hends
    obtain rfl : v = t.uncap := Except.ok.inj (hv.symm.trans hends)
    have hparams : t.params = s.params := by rw [hframe.1]
    refine .inl ⟨?_, ?_⟩
    · rw [hexec, hz, ← hparams]
      rfl
    · rw [← hparams]
      exact (zcompStream_inRange (hi.streamInRange hr) t ht).1.1
  · rw [ht, hv] at hends
    obtain ⟨b, hb⟩ := hends
    have hparams : t.params = s.params := by rw [hframe]
    have hready : (abandon t).Ready := by
      rw [State.Ready, abandon_err, hframe]
      exact hr
    rw [raise_ready hready] at hz
    refine .inr ⟨zcomp s, b, hexec, ?_, ?_, ?_, ?_⟩ <;> rw [hz]
    · rfl
    · rw [State.setErr_out, abandon_out, ← hfull, hparams]
    · rwa [State.setErr_out, abandon_out]
    · rwa [State.setErr_out, abandon_out]

/-- Settles O60: the run that completes has OUT within OUT_CAP; the run that is cut has it full, short of a byte. -/
theorem zcompOutFullKeepsWhatFits : Obligations.ZcompOutFullKeepsWhatFits := by
  intro s cap hi hr hlen hcnt hbuf hcap
  obtain ⟨u, -, -, -, hu, hframe, -⟩ := zcompWritesOneZlibStream s.uncap hi.uncap hr hlen hcnt hbuf rfl
  obtain ⟨ht, hfits⟩ | ⟨t, b, ht, herr, hfull, -, hb⟩ := zcompEnds hi hr hlen hcnt hbuf hu
  · have hle : u.out.length ≤ cap := hfits cap hcap
    have herr : u.err = 0#4 := by rw [hframe]; exact hr
    exact ⟨_, u, ht, hu, (List.take_of_length_le hle).symm, fun _ => ⟨rfl, herr⟩,
      fun hlt => absurd hle (Nat.not_le.2 hlt)⟩
  · obtain rfl : cap = t.out.length := Option.some.inj (hcap.symm.trans hfull)
    have hlt : t.out.length < u.out.length := by simpa using hb.length_le
    have hout : t.out = u.out.take t.out.length := List.prefix_iff_eq_take.1 ((List.prefix_append _ _).trans hb)
    exact ⟨t, u, ht, hu, hout, fun hle => absurd hlt (Nat.not_lt.2 hle), fun _ => ⟨herr, rfl⟩⟩

end Sys2Proof.Machine
end

section
/-! PROOFS. What ZCOMP appends as a whole: how many bytes (R160), that the buffer and QUALITY determine them (R162), and
the stream of the empty buffer (R140). -/

namespace Sys2Proof.Machine

variable {s s' t u : State}

/-! ### The size (R160) -/

/-- In no length bin does a match cost more than nine bits per byte, the longest distance code included. -/
theorem lenBin_cost {j : Nat} (h : j ≤ 28) : symLen (257 + j) + lenExtra.getD j 0 + 18 ≤ 9 * lenBase.getD j 0 := by
  have hall : ∀ i : Fin 29, symLen (257 + i) + lenExtra.getD i 0 + 18 ≤ 9 * lenBase.getD i 0 := by decide
  exact hall ⟨j, Nat.lt_succ_of_le h⟩

theorem distExtra_le_13 (k : Nat) : distExtra.getD k 0 ≤ 13 := getD_le (by decide) k

/-- Items cost at most nine bits per byte they stand for. -/
theorem length_itemBits_le {n : Nat} {items : List Item} (h : itemsLegal n items) :
    (items.flatMap itemBits).length ≤ 9 * (items.map itemLen).sum := by
  induction items generalizing n with
  | nil => exact Nat.zero_le _
  | cons x items ih =>
    rw [List.flatMap_cons, List.length_append, List.map_cons, List.sum_cons]
    cases x with
    | lit b =>
      have hrest := ih h
      have hsym := (symLen_range b.toNat).2
      simp only [itemBits, length_codeBits, itemLen]
      omega
    | copy L D =>
      obtain ⟨⟨h3, h258, -⟩, hlegal⟩ := h
      have hrest := ih hlegal
      obtain ⟨hbin, hbase, -⟩ := lenBin_range h3 h258
      have hcost := lenBin_cost hbin
      have hdist := distExtra_le_13 (distBin D)
      simp only [itemBits, List.length_append, length_codeBits, length_numBits, itemLen]
      omega

theorem length_flatMap_byteBits (bs : List Byte) : (bs.flatMap byteBits).length = 8 * bs.length := by
  induction bs with
  | nil => rfl
  | cons b bs ih => rw [List.flatMap_cons, List.length_append, length_byteBits, ih, List.length_cons]; omega

/-- Whole bytes are known from their bits. -/
theorem flatMap_byteBits_injective {bs cs : List Byte} (h : bs.flatMap byteBits = cs.flatMap byteBits) : bs = cs := by
  have hlen : bs.length = cs.length := by
    have := congrArg List.length h
    rw [length_flatMap_byteBits, length_flatMap_byteBits] at this
    omega
  obtain ⟨rest, rfl, -⟩ := bytes_of_bits (rest := []) (h.trans (List.append_nil _).symm)
  rw [List.length_append] at hlen
  rw [List.eq_nil_of_length_eq_zero (show rest.length = 0 by omega), List.append_nil]

/-- The bytes of a block: what stands between the header's two bytes and the checksum (R92 to R102). -/
structure IsBody (items : List Item) (body : List Byte) (pad : Nat) : Prop where
  bits : body.flatMap byteBits =
    [true, true, false] ++ items.flatMap itemBits ++ List.replicate 7 false ++ List.replicate pad false
  pad_lt : pad < 8

variable {items : List Item} {body body' : List Byte} {pad pad' : Nat}

theorem IsBody.length (h : IsBody items body pad) : 8 * body.length = 10 + (items.flatMap itemBits).length + pad := by
  rw [← length_flatMap_byteBits, h.bits]
  simp only [List.length_append, List.length_replicate, List.length_cons, List.length_nil]
  omega

/-- The items determine the body: the padding is what makes whole bytes. -/
theorem IsBody.unique (h : IsBody items body pad) (h' : IsBody items body' pad') : body = body' := by
  have hpad : pad = pad' := by
    have hlen := h.length
    have hlen' := h'.length
    have hlt := h.pad_lt
    have hlt' := h'.pad_lt
    omega
  exact flatMap_byteBits_injective (h.bits.trans (hpad ▸ h'.bits.symm))

/-- With the header and the checksum, the stream of legal items that expand to LEN bytes is within the bound of R160. -/
theorem IsBody.size_le (h : IsBody items body pad) (hexpand : expandItems [] items = s.buffer)
    (hlegal : itemsLegal 0 items) : body.length + 6 ≤ 6 + (10 + 9 * s.len.toNat + 7) / 8 := by
  have hsum : (items.map itemLen).sum = s.len.toNat := by
    rw [← length_buffer, ← hexpand, length_expandItems, List.length_nil, Nat.zero_add]
  have hbits := length_itemBits_le hlegal
  have hlen := h.length
  have hlt := h.pad_lt
  omega

theorem length_bigEndian (v : Word) : (bigEndian v).length = 4 := rfl

/-- How many bytes a stream has. -/
theorem length_stream {o : List Byte} {v : Word} (h : t.out = o ++ [0x78#8, 0x5E#8] ++ body ++ bigEndian v) :
    t.out.length = o.length + (body.length + 6) := by
  rw [h]
  simp only [List.length_append, length_bigEndian, List.length_cons, List.length_nil]
  omega

/-- Settles O58: the stream with OUT_CAP infinite is within the bound, and a run that is cut appends less. -/
theorem zcompSizeBound : Obligations.ZcompSizeBound := by
  intro s hi hr hlen hcnt hbuf
  obtain ⟨u, items, body, pad, hu, hframe, -, -, hexpand, hlegal, hout, hbits, hpad, -⟩ :=
    zcompWritesOneZlibStream s.uncap hi.uncap hr hlen hcnt hbuf rfl
  have hsize : body.length + 6 ≤ 6 + (10 + 9 * s.len.toNat + 7) / 8 := IsBody.size_le ⟨hbits, hpad⟩ hexpand hlegal
  have houtLen : u.out.length = s.out.length + (body.length + 6) := length_stream hout
  obtain ⟨ht, -⟩ | ⟨t, b, ht, -, hfull, hgrown, hb⟩ := zcompEnds hi hr hlen hcnt hbuf hu
  · have hgrown : s.out <+: u.out := by
      rw [hout, List.append_assoc, List.append_assoc]
      exact List.prefix_append _ _
    have herr : u.err = 0#4 := by rw [hframe]; exact hr
    exact ⟨_, ht, hgrown, by change u.out.length ≤ _; omega, fun _ => herr⟩
  · have hlt : t.out.length < u.out.length := by simpa using hb.length_le
    refine ⟨t, ht, hgrown, by omega, fun hroom => ?_⟩
    have := hroom _ hfull
    omega

/-! ### What determines the bytes (R162) -/

/-- A ZCOMP that leaves no fault passed its checks (R142). -/
theorem zcompCheck_of_exec (hr : s.Ready) (ht : exec .zcomp s = .next t) (herr : t.err = 0#4) : zcompCheck s = none := by
  cases hc : zcompCheck s with
  | none => rfl
  | some f =>
    rw [exec_zcomp_fault hr hc] at ht
    cases ht
    have hcode := (faultCode_range (f := f)).1
    rw [show faultCode f = 0#4 from herr] at hcode
    exact absurd hcode (by decide)

/-- Where the match finder starts, with OUT_CAP infinite and Q given (R143, R146). -/
def startAt (s : State) (q : Nat) : State := { s.uncap with lzQ := q, ht := [], lzI := 0 }

/-- What a ZCOMP that leaves no fault has appended, whatever OUT_CAP is. -/
theorem zcomp_appended (hi : s.Inv) (hr : s.Ready) (ht : exec .zcomp s = .next t) (herr : t.err = 0#4) :
    ∃ body pad q, t.out = s.out ++ ([0x78#8, 0x5E#8] ++ body ++ bigEndian (adler32 s.buffer)) ∧
      IsBody (decidedItems s.len.toNat (startAt s q)) body pad ∧
      (q : Int) = min (max s.quality.toInt 5) s.params.qmax := by
  obtain ⟨hc, -⟩ | ⟨hc, -⟩ | ⟨hc, -⟩ | ⟨-, hlen, hcnt, hbuf⟩ := zcompCheck_cases (s := s)
  case inr.inr.inr =>
    obtain ⟨u, items, body, pad, hu, -, hq, hitems, -, -, hout, hbits, hpad, -⟩ :=
      zcompWritesOneZlibStream s.uncap hi.uncap hr hlen hcnt hbuf rfl
    have hbody : IsBody (decidedItems s.len.toNat (startAt s u.lzQ)) body pad := ⟨hitems ▸ hbits, hpad⟩
    have htu : t.out = u.out := by
      obtain ⟨hends, -⟩ | ⟨t', b, hends, herr', -⟩ := zcompEnds hi hr hlen hcnt hbuf hu <;> cases ht.symm.trans hends
      · rfl
      · rw [herr] at herr'
        exact absurd herr' (by decide)
    exact ⟨body, pad, u.lzQ, by rw [htu, hout]; simp only [List.append_assoc]; rfl, hbody, hq⟩
  all_goals exact absurd (hc.symm.trans (zcompCheck_of_exec hr ht herr)) nofun

/-- Settles O59: the items are decided from the same view, and they and the checksum determine the bytes. -/
theorem zcompOutputDependsOnBufferAndQualityOnly : Obligations.ZcompOutputDependsOnBufferAndQualityOnly := by
  intro s s' t t' hi hi' hr hr' hhash hqmax hbuffer hquality ht ht' herr herr'
  obtain ⟨body, pad, q, hout, hbody, hq⟩ := zcomp_appended hi hr ht herr
  obtain ⟨body', pad', q', hout', hbody', hq'⟩ := zcomp_appended hi' hr' ht' herr'
  have hlen : s'.len = s.len := BitVec.eq_of_toNat_eq (by rw [← length_buffer, hbuffer, length_buffer])
  obtain rfl : q' = q := by
    rw [hquality, hqmax, ← hq] at hq'
    exact Int.ofNat.inj hq'
  have hview : SameView (startAt s q') (startAt s' q') :=
    ⟨rfl, rfl, rfl, hlen, hhash, fun _ hk => bufAt_of_buffer_eq hbuffer hk⟩
  rw [hlen, hview.decidedItems_eq (tableBelow_of_empty rfl)] at hbody'
  rw [hbuffer, ← hbody.unique hbody'] at hout'
  exact ⟨_, hout, hout'⟩

/-! ### The empty buffer (R140) -/

theorem buffer_of_len_zero (h : s.len = 0#32) : s.buffer = [] :=
  List.eq_nil_of_length_eq_zero (by rw [length_buffer, h]; rfl)

/-- ADLER 1 is LO 1 and HI 0 (R37). -/
theorem sums_of_adler_one (h : s.adler = 1#32) : s.lo = 1#16 ∧ s.hi = 0#16 := by
  have hsum := adler_toNat s
  rw [h] at hsum
  have hlo := s.lo.isLt
  exact ⟨BitVec.eq_of_toNat_eq (by change _ = 1; change 1 = _ at hsum; omega),
    BitVec.eq_of_toNat_eq (by change _ = 0; change 1 = _ at hsum; omega)⟩

/-- The body of no items: end-of-block and padding. -/
theorem isBody_nil : IsBody [] [0x03#8, 0x00#8] 6 := ⟨by decide, by decide⟩

/-- Settles O52: no items, so the body is end-of-block alone, and the checksum is its seed. -/
theorem zcompOfTheEmptyBuffer : Obligations.ZcompOfTheEmptyBuffer := by
  intro s hi hr hcnt hzero hdata hroom
  have hlen : s.len.toNat < LEN_LIMIT := by rw [hzero]; decide
  have hbuf : s.bufInFb := by rw [State.bufInFb, hzero]; exact hdata
  obtain ⟨u, items, body, pad, hu, hframe, -, hitems, -, -, hout, hbits, hpad, hadler⟩ :=
    zcompWritesOneZlibStream s.uncap hi.uncap hr hlen hcnt hbuf rfl
  have hnil : items = [] := by
    rw [hitems, show s.uncap.len = 0#32 from hzero]
    rfl
  obtain rfl : body = [0x03#8, 0x00#8] := by
    rw [hnil] at hbits
    exact IsBody.unique ⟨hbits, hpad⟩ isBody_nil
  have hbuffer : s.uncap.buffer = [] := buffer_of_len_zero hzero
  rw [hbuffer] at hout hadler
  obtain ⟨hlo, hhi⟩ := sums_of_adler_one (s := u) (Option.some.inj hadler)
  have houtLen : u.out.length = s.out.length + 8 := length_stream hout
  obtain ⟨ht, -⟩ | ⟨t, b, -, -, hfull, -, hb⟩ := zcompEnds hi hr hlen hcnt hbuf hu
  · refine ⟨_, ht, hout.trans ?_, ?_, ?_, ?_, ?_, hlo, hhi⟩
    · simp only [List.append_assoc]
      rfl
    all_goals rw [hframe]
    exact hr
  · have hlt : t.out.length < u.out.length := by simpa using hb.length_le
    have := hroom _ hfull
    omega

end Sys2Proof.Machine
end

section
/-! PROOFS. The decoder reads back what ZCOMP appends (R163): numbers, codes, symbols and matches one by one, then a list
of items, then the whole stream. -/

namespace Sys2Proof.Machine

variable {rest : List Bool}

/-! ### Numbers, codes and symbols -/

theorem numBits_succ (v n : Nat) : numBits v (n + 1) = v.testBit 0 :: numBits (v / 2) n := by
  rw [Nat.add_comm, numBits_add]
  rfl

/-- A number is read back (R93). -/
theorem takeNum_numBits {v n : Nat} (hv : v < 2 ^ n) : takeNum n (numBits v n ++ rest) = some (v, rest) := by
  induction n generalizing v with
  | zero =>
    obtain rfl : v = 0 := by omega
    rfl
  | succ n ih =>
    rw [numBits_succ, List.cons_append, takeNum, ih (by omega), Option.map_some, Nat.toNat_testBit, Nat.pow_zero,
      Nat.div_one, Nat.mod_add_div]

theorem codeBits_succ (c n : Nat) : codeBits c (n + 1) = c.testBit n :: codeBits c n := by
  rw [codeBits, List.range_succ_eq_map, List.map_cons, List.map_map]
  refine congrArg₂ _ rfl (List.map_congr_left fun k hk => ?_)
  show c.testBit _ = c.testBit _
  congr 1
  omega

/-- A code is read back, most significant bit first, onto the bits before it. -/
theorem takeCode_codeBits (v c n : Nat) :
    takeCode n v (codeBits c n ++ rest) = some (v * 2 ^ n + c % 2 ^ n, rest) := by
  induction n generalizing v with
  | zero => simp [takeCode, codeBits, Nat.mod_one]
  | succ n ih =>
    rw [codeBits_succ, List.cons_append, takeCode, ih, Nat.mod_pow_succ, Nat.toNat_testBit]
    congr 2
    ring

/-- Bits begin with the code of one symbol only (R94, R105). -/
theorem eq_of_codes_begin {a b : Nat} {bits : List Bool} (ha : a ≤ 287) (hb : b ≤ 287)
    (hab : codeBits (symCode a) (symLen a) <+: bits) (hbb : codeBits (symCode b) (symLen b) <+: bits) : a = b := by
  obtain h | h := List.prefix_or_prefix_of_prefix hab hbb
  · exact eq_of_code_prefix ha hb h
  · exact (eq_of_code_prefix hb ha h).symm

/-- A symbol is read back: no other code begins the bits (R94, R105). -/
theorem takeSym_codeBits {sym : Nat} (h : sym ≤ 287) :
    takeSym (codeBits (symCode sym) (symLen sym) ++ rest) = some (sym, rest) := by
  have hfind : (List.range 288).find? (fun s =>
      (codeBits (symCode s) (symLen s)).isPrefixOf (codeBits (symCode sym) (symLen sym) ++ rest)) = some sym := by
    refine List.find?_range_eq_some.2 ⟨?_, List.mem_range.2 (Nat.lt_succ_of_le h), fun j hj => ?_⟩
    · exact List.isPrefixOf_iff_prefix.2 (List.prefix_append _ _)
    · rw [Bool.not_eq_true', Bool.eq_false_iff]
      intro hother
      exact hj.ne (eq_of_codes_begin (by omega) h (List.isPrefixOf_iff_prefix.1 hother) (List.prefix_append _ _))
  rw [takeSym, hfind, Option.map_some, List.drop_left' (length_codeBits _ _)]

/-! ### Items -/

/-- A match is read back after its length symbol (R96 to R100). -/
theorem takeCopy_itemBits {L D : Nat} (h3 : 3 ≤ L) (h258 : L ≤ 258) (h1 : 1 ≤ D) (hD : D ≤ 32768) :
    takeCopy (257 + lenBin L) (numBits (L - lenBase.getD (lenBin L) 0) (lenExtra.getD (lenBin L) 0) ++
      (codeBits (distBin D) 5 ++
        (numBits (D - distBase.getD (distBin D) 0) (distExtra.getD (distBin D) 0) ++ rest))) = some ((L, D), rest) := by
  obtain ⟨-, -, -, -, hlen, hdist, -⟩ := binsCoverLengthsAndDistances
  obtain ⟨hlbin, hllow, -, hlextra⟩ := hlen L h3 h258
  obtain ⟨hdbin, hdlow, -, hdextra⟩ := hdist D h1 hD
  have hmod : distBin D % 2 ^ 5 = distBin D := Nat.mod_eq_of_lt (by omega)
  rw [takeCopy, if_neg (by omega), Nat.add_sub_cancel_left, takeNum_numBits hlextra, Option.bind_some,
    takeCode_codeBits, Option.bind_some, hmod, Nat.zero_mul, Nat.zero_add, if_neg (by omega), takeNum_numBits hdextra,
    Option.map_some, Nat.add_sub_cancel' hllow, Nat.add_sub_cancel' hdlow]

theorem inflate_lit {fuel : Nat} {out : List Byte} (b : Byte) :
    inflate (fuel + 1) out (itemBits (.lit b) ++ rest) = inflate fuel (out ++ [b]) rest := by
  have hb := b.isLt
  rw [inflate, itemBits, takeSym_codeBits (by omega)]
  simp only [if_pos hb, BitVec.ofNat_toNat, BitVec.setWidth_eq]

theorem inflate_copy {fuel : Nat} {out : List Byte} {L D : Nat} (h3 : 3 ≤ L) (h258 : L ≤ 258) (h1 : 1 ≤ D)
    (hD : D ≤ 32768) (hout : D ≤ out.length) :
    inflate (fuel + 1) out (itemBits (.copy L D) ++ rest) = inflate fuel (copyBack D L out) rest := by
  have hbin := (lenBin_range h3 h258).1
  rw [inflate, itemBits, List.append_assoc, List.append_assoc, List.append_assoc, takeSym_codeBits (by omega)]
  simp only [if_neg (show ¬257 + lenBin L < 256 by omega), if_neg (show ¬257 + lenBin L = 256 by omega),
    takeCopy_itemBits h3 h258 h1 hD, if_pos hout]

/-- End-of-block (R101). -/
theorem inflate_endOfBlock {fuel : Nat} {out : List Byte} :
    inflate (fuel + 1) out (List.replicate 7 false ++ rest) = some (out, rest) := by
  have hbits : List.replicate 7 false = codeBits (symCode 256) (symLen 256) := by decide
  rw [inflate, hbits, takeSym_codeBits (by decide)]
  rfl

/-- Legal items are read back to the bytes they stand for. -/
theorem inflate_items {items : List Item} {fuel : Nat} {out : List Byte} (hlegal : itemsLegal out.length items)
    (hfuel : items.length < fuel) : inflate fuel out (items.flatMap itemBits ++ (List.replicate 7 false ++ rest)) =
      some (expandItems out items, rest) := by
  induction items generalizing fuel out with
  | nil =>
    obtain ⟨fuel, rfl⟩ := Nat.exists_eq_succ_of_ne_zero (Nat.ne_of_gt hfuel)
    exact inflate_endOfBlock
  | cons x items ih =>
    obtain ⟨fuel, rfl⟩ := Nat.exists_eq_succ_of_ne_zero (Nat.ne_zero_of_lt hfuel)
    replace hfuel : items.length < fuel := Nat.lt_of_succ_lt_succ hfuel
    rw [List.flatMap_cons, List.append_assoc]
    cases x with
    | lit b =>
      rw [inflate_lit, ih (by rwa [List.length_append]) hfuel]
      rfl
    | copy L D =>
      obtain ⟨⟨h3, h258, h1, hD, hout⟩, hrest⟩ := hlegal
      rw [inflate_copy h3 h258 h1 (hD.trans (by decide)) hout, ih (by rwa [length_copyBack]) hfuel]
      rfl

/-! ### The whole stream -/

/-- No more items than bits. -/
theorem length_items_le (items : List Item) : items.length ≤ (items.flatMap itemBits).length := by
  induction items with
  | nil => exact Nat.le_refl 0
  | cons x items ih =>
    have hx : 1 ≤ (itemBits x).length := by
      cases x with
      | lit b =>
        have := (symLen_range b.toNat).1
        rw [itemBits, length_codeBits]
        omega
      | copy L D =>
        simp only [itemBits, List.length_append, length_codeBits]
        omega
    rw [List.flatMap_cons, List.length_append, List.length_cons]
    omega

/-- The decoder on a stream of legal items that carries the checksum of the bytes they stand for. -/
theorem zlibDecode_stream {items : List Item} {body : List Byte} {pad : Nat} (hbody : IsBody items body pad)
    (hlegal : itemsLegal 0 items) :
    zlibDecode ([0x78#8, 0x5E#8] ++ body ++ bigEndian (adler32 (expandItems [] items))) =
      some (expandItems [] items) := by
  generalize hout : expandItems [] items = out
  have hbits : (body ++ bigEndian (adler32 out)).flatMap byteBits = true :: true :: false ::
      (items.flatMap itemBits ++ (List.replicate 7 false ++
        (List.replicate pad false ++ (bigEndian (adler32 out)).flatMap byteBits))) := by
    rw [List.flatMap_append, hbody.bits]
    simp only [List.append_assoc, List.cons_append, List.nil_append]
  have hafter : (List.replicate pad false ++ (bigEndian (adler32 out)).flatMap byteBits).length / 8 = 4 := by
    have hlt := hbody.pad_lt
    rw [List.length_append, List.length_replicate, length_flatMap_byteBits, length_bigEndian]
    omega
  have hcheck : (body ++ bigEndian (adler32 out)).length - 4 = body.length := by
    rw [List.length_append, length_bigEndian, Nat.add_sub_cancel]
  show zlibDecode (0x78#8 :: 0x5E#8 :: (body ++ bigEndian (adler32 out))) = some out
  rw [zlibDecode, hbits]
  simp only
  rw [inflate_items (out := []) hlegal (Nat.lt_succ_of_le ((length_items_le items).trans (by simp))), hout]
  simp only [hafter, hcheck, List.drop_left, if_true]

/-- Settles O57: the stream is that of the decided items, which are legal and expand to the buffer. -/
theorem zcompRoundTrip : Obligations.ZcompRoundTrip := by
  intro s hi hr hlen hcnt hbuf hcap
  obtain ⟨t, items, body, pad, ht, -, -, -, hexpand, hlegal, hout, hbits, hpad, -⟩ :=
    zcompWritesOneZlibStream s hi hr hlen hcnt hbuf hcap
  refine ⟨t, ht, ?_⟩
  rw [hout, List.append_assoc, List.append_assoc, List.drop_left, ← List.append_assoc, ← hexpand]
  exact zlibDecode_stream ⟨hbits, hpad⟩ hlegal

end Sys2Proof.Machine
end

section
/-! PROOFS. Unit BS command by command (R180 to R188): what the bit sequence says of OUT, ACC and CNT, the effect of each
command where it has room, and what the commands of units BS, AD and LZ leave unchanged. -/

namespace Sys2Proof.Machine

variable {s t u : State} {v : Word} {count : Nat}

/-! ### The bit sequence determines OUT, ACC and CNT (R183) -/

theorem numBits_injective {a b n : Nat} (ha : a < 2 ^ n) (hb : b < 2 ^ n) (h : numBits a n = numBits b n) : a = b :=
  eq_of_testBit_eq_below ha hb fun k hk => List.map_inj_left.1 h k (List.mem_range.2 hk)

theorem length_streamBits (s : State) : s.streamBits.length = 8 * s.out.length + s.cnt := by
  rw [State.streamBits, List.length_append, length_flatMap_byteBits, length_numBits]

/-- The length of the bit sequence gives OUTLEN and CNT, since CNT is below 8; then the bits give the bytes and ACC. -/
theorem streamBits_injective (hs : BitsReduced s) (ht : BitsReduced t) (h : s.streamBits = t.streamBits) :
    s.out = t.out ∧ s.acc = t.acc ∧ s.cnt = t.cnt := by
  obtain ⟨hscnt, hsacc⟩ := hs
  obtain ⟨htcnt, htacc⟩ := ht
  have hlen : 8 * s.out.length + s.cnt = 8 * t.out.length + t.cnt := by
    rw [← length_streamBits, ← length_streamBits, h]
  have hcnt : s.cnt = t.cnt := by omega
  obtain ⟨hout, hacc⟩ := List.append_inj h (by rw [length_flatMap_byteBits, length_flatMap_byteBits]; omega)
  rw [hcnt] at hsacc hacc
  exact ⟨flatMap_byteBits_injective hout, BitVec.eq_of_toNat_eq (numBits_injective hsacc htacc hacc), hcnt⟩

theorem State.Inv.bitsReduced (hi : s.Inv) (hr : s.Ready) : BitsReduced s := ⟨hi.cntLe, hi.accLt hr.ne_outFull⟩

/-! ### WRBITS -/

/-- `t` is what a WRBITS of `count` bits of `v` leaves of `s`: the bits stand at the end of the bit sequence, and nothing
but OUT, ACC and CNT has changed (R181). -/
structure WroteBits (s : State) (v : Word) (count : Nat) (t : State) : Prop where
  frame : t = { s with out := t.out, acc := t.acc, cnt := (s.cnt + count) % 8 }
  grown : s.out <+: t.out
  outlen : t.out.length = s.out.length + (s.cnt + count) / 8
  reduced : BitsReduced t
  bits : t.streamBits = s.streamBits ++ numBits v.toNat count

theorem WroteBits.cnt (h : WroteBits s v count t) : t.cnt = (s.cnt + count) % 8 := by rw [h.frame]

/-- The bit sequence decides: two WRBITS that lead to the same one lead to the same state (R183). -/
theorem WroteBits.unique (ht : WroteBits s v count t)
    (hu : u = { s with out := u.out, acc := u.acc, cnt := u.cnt }) (hured : BitsReduced u)
    (h : t.streamBits = u.streamBits) : t = u := by
  obtain ⟨hout, hacc, hcnt⟩ := streamBits_injective ht.reduced hured h
  rw [ht.frame, hu, ← hout, ← hacc, ← hcnt, ht.cnt]

/-- WRBITS with a legal count and room is `WriteBits`, which then has room too (R182). -/
theorem exec_wrbits_ok (hr : s.Ready) (hs : BitsReduced s) (hcount : count ≤ 32) (hroom : s.RoomFor ((s.cnt + count) / 8)) :
    ∃ t, exec (.wrbits v count) s = .next t ∧ WroteBits s v count t := by
  have hcnt := hs.1
  obtain ⟨t, ht, hframe, hlen, hacc, hbits⟩ := writeBits_ok (v := v) (c := count) (by omega) hs.2 hroom
  have hstream : StreamFrame s t := by
    have h := (writeBits_appends (s := s) v count).1
    rwa [ht] at h
  have hexec : wrbits v count s = t := by
    rw [wrbits, if_neg (by omega), if_neg (by rw [exceedsCap_iff.2 hroom]; decide), ht, settle_ok]
  have htcnt : t.cnt = (s.cnt + count) % 8 := by rw [hframe]
  exact ⟨t, hexec ▸ command_ready hr, hframe, hstream.2, hlen, ⟨by omega, hacc⟩, hbits⟩

/-- Settles O25: WRBITS is `WriteBits`, and the low bits of the value are its bits. -/
theorem wrbitsAppendsTheLowBits : Obligations.WrbitsAppendsTheLowBits := by
  intro s v count hi hr hcount hroom
  obtain ⟨t, hexec, ht⟩ := exec_wrbits_ok (v := v) hr (hi.bitsReduced hr) hcount hroom
  exact ⟨t, hexec, ht.frame, ht.grown, ht.outlen, ht.reduced.2, ht.bits⟩

/-- Eight bits on a byte boundary (R183 (a)): a byte at the end of OUT gives the same bit sequence. -/
theorem exec_wrbits_byte (hr : s.Ready) (hs : BitsReduced s) (hcnt : s.cnt = 0) (hroom : s.RoomFor 1) :
    exec (.wrbits v 8) s = .next (s.setOut (s.out ++ [v.setWidth 8])) := by
  obtain ⟨t, hexec, ht⟩ := exec_wrbits_ok (v := v) (count := 8) hr hs (by decide) (by rwa [hcnt])
  have hbyte : numBits v.toNat 8 = byteBits (v.setWidth 8) := by
    rw [byteBits, BitVec.toNat_setWidth, numBits_mod]
  have hbits : t.streamBits = (s.setOut (s.out ++ [v.setWidth 8])).streamBits := by
    rw [ht.bits, hbyte]
    simp only [State.streamBits, State.setOut_out, State.setOut_acc, State.setOut_cnt, hcnt, numBits_zero,
      List.append_nil, List.flatMap_append, List.flatMap_singleton]
  rw [hexec, ht.unique (u := s.setOut (s.out ++ [v.setWidth 8])) rfl hs hbits]

/-- A split WRBITS (R183 (b)): the first part's bits and then the second's are the bits of the whole. -/
theorem exec_wrbits_split {first : Nat} (hr : s.Ready) (hs : BitsReduced s) (hfirst : first ≤ count) (hcount : count ≤ 32)
    (hroom : s.RoomFor ((s.cnt + count) / 8)) :
    ∃ u t, exec (.wrbits v first) s = .next u ∧ exec (.wrbits (v >>> first) (count - first)) u = .next t ∧
      exec (.wrbits v count) s = .next t := by
  obtain ⟨u, huexec, hu⟩ := exec_wrbits_ok (v := v) (count := first) hr hs (by omega) fun cap hcap => by
    have := hroom cap hcap
    omega
  have hur : u.Ready := by rw [hu.frame]; exact hr
  have hparams : u.params = s.params := by rw [hu.frame]
  obtain ⟨t, htexec, ht⟩ := exec_wrbits_ok (v := v >>> first) (count := count - first) hur hu.reduced (by omega)
    fun cap hcap => by
      have := hroom cap (hparams ▸ hcap)
      rw [hu.outlen, hu.cnt]
      omega
  obtain ⟨w, hwexec, hw⟩ := exec_wrbits_ok (v := v) hr hs hcount hroom
  have hbits : w.streamBits = t.streamBits := by
    rw [hw.bits, ht.bits, hu.bits, List.append_assoc, BitVec.toNat_ushiftRight, ← numBits_add, Nat.add_sub_cancel' hfirst]
  have htframe : t = { s with out := t.out, acc := t.acc, cnt := t.cnt } := by
    rw [ht.frame, hu.frame]
  exact ⟨u, t, huexec, htexec, hw.unique htframe ht.reduced hbits ▸ hwexec⟩

/-- Settles O26: (a) and (b) by (c), which makes the bit sequence decide. -/
theorem wrbitsMayBeSplit : Obligations.WrbitsMayBeSplit :=
  ⟨fun _ _ hi hr => exec_wrbits_byte hr (hi.bitsReduced hr),
    fun _ _ _ _ hi hr => exec_wrbits_split hr (hi.bitsReduced hr),
    fun _ _ hscnt htcnt hsacc htacc => streamBits_injective ⟨hscnt, hsacc⟩ ⟨htcnt, htacc⟩⟩

/-! ### FLUSH -/

/-- FIN is set when `final` is 1 and otherwise unchanged (R41). -/
theorem markFinal_eq (final : Bool) (s : State) : markFinal final s = { s with fin := s.fin || final } := by
  cases final with
  | false => rw [Bool.or_false]; rfl
  | true => rw [Bool.or_true]; rfl

/-- FLUSH with nothing pending: the check passes, and only FIN is written (R185). -/
theorem exec_flush_empty (hr : s.Ready) (hcnt : s.cnt = 0) (final : Bool) :
    exec (.flush final) s = .next { s with fin := s.fin || final } := by
  have hflush : flush final s = markFinal final s := by
    rw [flush, if_neg fun h => absurd h.1 (by omega), flushBits, if_neg (by omega), settle_ok]
  rw [← markFinal_eq, ← hflush]
  exact command_ready hr

/-- FLUSH with bits pending and OUT not full: they leave as one byte (R185). -/
theorem exec_flush_pending (hr : s.Ready) (hcnt : 0 < s.cnt) (hcap : s.params.outCap ≠ some s.out.length) (final : Bool) :
    exec (.flush final) s =
      .next { s with out := s.out ++ [s.acc.setWidth 8], acc := 0#39, cnt := 0, fin := s.fin || final } := by
  have hflush : flush final s = markFinal final ((s.setOut (s.out ++ [s.acc.setWidth 8])).setBits 0#39 0) := by
    rw [flush, if_neg fun h => hcap h.2, flushBits, if_pos hcnt, outAppend_ok hcap]
    rfl
  rw [markFinal_eq] at hflush
  exact (command_ready hr).trans (congrArg _ hflush)

/-- Settles O27: by whether bits are pending; the byte of the pending bits is those bits and zeros. -/
theorem flushPadsToAByte : Obligations.FlushPadsToAByte := by
  intro s f hr
  refine ⟨fun hcnt => exec_flush_empty hr hcnt f, fun hcnt hcap => exec_flush_pending hr hcnt hcap f, ?_⟩
  intro t hi hcnt hroom h
  rw [exec_flush_pending hr hcnt (State.RoomFor.not_full (n := 0) hroom)] at h
  cases h
  simp only [State.streamBits, List.flatMap_append, List.flatMap_singleton, numBits_zero, List.append_nil,
    byteBits_acc (hi.bitsReduced hr), List.append_assoc]

/-! ### WRBE32 and BSCLR -/

/-- The bytes of a word as quotients (R67). -/
theorem bigEndian_eq (v : Word) : bigEndian v =
    [BitVec.ofNat 8 (v.toNat / 2 ^ 24), BitVec.ofNat 8 (v.toNat / 2 ^ 16), BitVec.ofNat 8 (v.toNat / 2 ^ 8),
      BitVec.ofNat 8 v.toNat] := by
  simp only [bigEndian, BitVec.extractLsb', Nat.shiftRight_eq_div_pow, Nat.pow_zero, Nat.div_one]

/-- Settles O28: both checks pass, and `WriteBe32` appends the four bytes. -/
theorem wrbe32AppendsBigEndian : Obligations.Wrbe32AppendsBigEndian := by
  intro s v hr hcnt hroom
  have hwrbe32 : wrbe32 v s = s.setOut (s.out ++ bigEndian v) := by
    rw [wrbe32, if_neg (not_not_intro hcnt), if_neg (by rw [exceedsCap_iff.2 hroom]; decide), writeBe32_ok hroom, settle_ok]
  rw [bigEndian_eq] at hwrbe32
  exact (command_ready hr).trans (congrArg _ hwrbe32)

/-- Settles O29: a block that is not FAULTED runs BSCLR, whose updates write those four fields. -/
theorem bsclrClearsTheStreamOnly : Obligations.BsclrClearsTheStreamOnly := fun _ hr => command_ready hr

/-! ### Frames -/

/-- Only the state of unit BS and ERR differ. -/
def BsFrame (s t : State) : Prop :=
  t = { s with out := t.out, acc := t.acc, cnt := t.cnt, fin := t.fin, err := t.err }

/-- Only the state of unit AD and ERR differ. -/
def AdFrame (s t : State) : Prop := t = { s with lo := t.lo, hi := t.hi, err := t.err }

theorem BsFrame.raise {f : CmdFault} (h : StreamFrame s t) : BsFrame s (raise f t) := by
  unfold BsFrame
  rw [raise_frame, h.1]
  rfl

/-- An operation that appends stays in the frame of unit BS, whether it finds room or not. -/
theorem Appends.bsFrame {x : Appended} (h : Appends s x) : BsFrame s (settle x) := by
  cases x with
  | ok t =>
    have hframe : StreamFrame s t := h.1
    rw [settle_ok]
    unfold BsFrame
    rw [hframe.1]
  | error t => exact .raise h.1

theorem BsFrame.ite {c : Prop} [Decidable c] (ht : BsFrame s t) (hu : BsFrame s u) : BsFrame s (if c then t else u) := by
  split
  · exact ht
  · exact hu

theorem wrbits_bsFrame (v : Word) (count : Nat) : BsFrame s (wrbits v count s) :=
  .ite (.raise (.refl s)) (.ite (.raise (.refl s)) (writeBits_appends v count).bsFrame)

theorem flush_bsFrame (final : Bool) : BsFrame s (flush final s) :=
  .ite (.raise (.refl s)) (flushBits_appends final).bsFrame

theorem wrbe32_bsFrame (v : Word) : BsFrame s (wrbe32 v s) :=
  .ite (.raise (.refl s)) (.ite (.raise (.refl s)) (writeBe32_appends v).bsFrame)

theorem bsclr_bsFrame : BsFrame s (bsclr s) := rfl

theorem SumFrame.ad (h : SumFrame s t) : AdFrame s t := by
  unfold AdFrame
  rw [h]

theorem AdFrame.raise (f : CmdFault) : AdFrame s (raise f s) := by
  unfold AdFrame
  rw [raise_frame]
  rfl

theorem adupd_adFrame : AdFrame s (adupd s) := by
  obtain ⟨-, h⟩ | ⟨-, -, h⟩ | ⟨-, -, h⟩ := adupd_cases (s := s) <;> rw [h]
  · exact .raise .badCfg
  · exact .raise .badAddr
  · exact checksumRun_frame.ad

/-- Only the state of units BS, AD and LZ, the counter of free values and ERR differ. -/
def UnitErrFrame (s t : State) : Prop :=
  t = { s with
    out := t.out, acc := t.acc, cnt := t.cnt, fin := t.fin, lo := t.lo, hi := t.hi, ht := t.ht, lzI := t.lzI,
    lzQ := t.lzQ, lzBest := t.lzBest, lzBestLoc := t.lzBestLoc, freeCtr := t.freeCtr, err := t.err }

/-- A command that filters no row stays in its units and ERR. -/
theorem CommandEffect.unitErrFrame {i : Instr} (hi : i ∉ filters) (h : CommandEffect s i t) : UnitErrFrame s t := by
  unfold UnitErrFrame
  cases h with
  | done h => rw [h.1]
  | fault f h => rw [raise_frame, h.1]; rfl
  | row k hmem => exact absurd hmem hi
  | clear => rfl

/-- A command stays in a frame that its body stays in: a FAULTED block ignores it. -/
theorem command_frame {R : State → State → Prop} {body : State → State} (hrefl : R s s) (hbody : R s (body s))
    (h : command body s = .next t) : R s t := by
  obtain ⟨-, rfl⟩ | ⟨-, rfl⟩ := command_cases h
  · exact hbody
  · exact hrefl

theorem exec_unitErrFrame {i : Instr} (hi : i ∉ filters) (h : exec i s = .next t) : UnitErrFrame s t := by
  by_cases hr : s.Ready
  · exact (exec_effect hr h).unitErrFrame hi
  · rw [exec_faulted hr h]; rfl

/-- Settles O43: each unit's frame, command by command; PIX and FB lie outside all of them. -/
theorem streamAndChecksumCommandsFrame : Obligations.StreamAndChecksumCommandsFrame := by
  intro i s t h
  refine ⟨?_, ?_, ?_, fun hi a => ?_⟩
  · rintro (⟨v, count, rfl⟩ | ⟨final, rfl⟩ | ⟨v, rfl⟩ | rfl)
    · exact command_frame (R := BsFrame) rfl (wrbits_bsFrame v count) h
    · exact command_frame (R := BsFrame) rfl (flush_bsFrame final) h
    · exact command_frame (R := BsFrame) rfl (wrbe32_bsFrame v) h
    · exact command_frame (R := BsFrame) rfl bsclr_bsFrame h
  · rintro (rfl | rfl)
    · exact command_frame (R := AdFrame) rfl checksumInit_frame.ad h
    · exact command_frame (R := AdFrame) rfl adupd_adFrame h
  · rintro rfl
    exact exec_unitErrFrame (by decide) h
  · have hframe := exec_unitErrFrame hi h
    exact ⟨pixAt_congr (by rw [hframe]) (by rw [hframe]) a, fbAt_congr (by rw [hframe]) (by rw [hframe]) a⟩

end Sys2Proof.Machine
end

section
/-! PROOFS. Unit AD command by command (`43_adler32.md`): the bounds inside a block (R194), the effect of ADINIT and ADUPD
in full (R191, R192), that the cut of a buffer is immaterial (R195), and the Adler-32 of a buffer (R193). -/

namespace Sys2Proof.Machine

variable {s t : State}

/-! ### Inside a block (R194) -/

/-- Each byte adds at most 255. -/
theorem blockSum_le (blk : List Byte) : blockSum blk ≤ 255 * blk.length := by
  induction blk with
  | nil => exact Nat.le_refl 0
  | cons b bs ih =>
    rw [blockSum, List.length_cons]
    omega

/-- Bytes of at most 255 under the weights 1 to `n`, whose sum is half of `n * (n + 1)`. -/
theorem two_mul_blockWeighted_le (blk : List Byte) :
    2 * blockWeighted blk ≤ 255 * (blk.length * (blk.length + 1)) := by
  induction blk with
  | nil => exact Nat.le_refl 0
  | cons b bs ih =>
    have hfirst : b.toNat * (bs.length + 1) ≤ 255 * (bs.length + 1) := Nat.mul_le_mul_right _ (by omega)
    rw [blockWeighted, List.length_cons]
    linarith

/-- Settles O33: both sums of a block grow with its length, and so does what LO at block entry adds to HI. -/
theorem blockSumsFit32Bits : Obligations.BlockSumsFit32Bits := by
  intro blk lo hi hlen hlo hhi
  have hsum := blockSum_le blk
  have hweighted := two_mul_blockWeighted_le blk
  have hlengths : blk.length * (blk.length + 1) ≤ 5552 * 5553 := Nat.mul_le_mul hlen (Nat.succ_le_succ hlen)
  have hproduct : blk.length * lo ≤ 5552 * 65520 := Nat.mul_le_mul hlen (Nat.le_of_lt_succ hlo)
  simp only [NMAX, BASE] at hlen hlo hhi
  omega

/-! ### ADINIT and ADUPD -/

/-- ADINIT completes with the seed (R191). -/
theorem exec_adinit_ok (hr : s.Ready) : exec .adinit s = .next (checksumInit s) := command_ready hr

/-- Settles O30: a block that is not FAULTED takes the seed; ADLER is HI above LO. -/
theorem adinitSeedsTheChecksum : Obligations.AdinitSeedsTheChecksum := by
  have hadler : 0#16 ++ 1#16 = 1#32 := by decide
  exact fun _ hr => ⟨exec_adinit_ok hr, congrArg some hadler⟩

/-- ADUPD completes when both its checks pass (R192). -/
theorem exec_adupd_ok (hr : s.Ready) (hlen : s.len.toNat < LEN_LIMIT) (hbuf : s.bufInFb) :
    exec .adupd s = .next (checksumRun s) := by
  have hrun : adupd s = checksumRun s := by rw [adupd, if_neg (Nat.not_le_of_lt hlen), if_neg (not_not_intro hbuf)]
  exact (command_ready hr).trans (congrArg _ hrun)

/-- The checksum of a whole buffer is the reference over it, from whatever LO and HI hold (R190, R192). -/
theorem checksumRun_sums (h : SumsReduced s) : (checksumRun s).sums = adlerRun s.sums s.buffer :=
  blocks_run _ 0 h (Nat.sub_le _ _)

theorem checksumRun_reduced (h : SumsReduced s) : SumsReduced (checksumRun s) := blocks_reduced _ _ h.1 h.2

/-- A state that differs in the sums only, from the sums as numbers. -/
theorem SumFrame.eq_of_sums {p : Nat × Nat} (h : SumFrame s t) (hp : t.sums = p) :
    t = { s with lo := BitVec.ofNat 16 p.1, hi := BitVec.ofNat 16 p.2 } := by
  rw [← hp, State.sums, BitVec.ofNat_toNat, BitVec.ofNat_toNat, BitVec.setWidth_eq, BitVec.setWidth_eq]
  exact h

/-- Settles O31: of what ADUPD may change, the sums, the reference says what they become. -/
theorem adupdComputesTheReference : Obligations.AdupdComputesTheReference := by
  intro s hi hr hlen hbuf
  rw [exec_adupd_ok hr hlen hbuf]
  exact congrArg _ (checksumRun_frame.eq_of_sums (checksumRun_sums (hi.sumsReduced hr)))

/-- Settles O34: ADUPD after ADINIT runs the checksum from its seed, over the same buffer. -/
theorem adinitAdupdGiveTheAdler32 : Obligations.AdinitAdupdGiveTheAdler32 := by
  intro s _ hr hlen hbuf
  exact ⟨checksumInit s, checksumRun (checksumInit s), exec_adinit_ok hr,
    exec_adupd_ok (s := checksumInit s) hr hlen hbuf, congrArg some checksumRun_init_adler⟩

/-! ### Buffers in pieces (R195) -/

/-- Only LO, HI, DATA and LEN differ. -/
def CutFrame (s t : State) : Prop := t = { s with lo := t.lo, hi := t.hi, data := t.data, len := t.len }

/-- Between two cuts only LO, HI, DATA and LEN change, so a later buffer is a piece of the first block's FB. -/
theorem CutFrame.buffer {pos : Nat} (h : CutFrame s t) (hd : t.data.toNat = s.data.toNat + pos) :
    t.buffer = s.bufSlice pos t.len.toNat := by
  have hbyte (k : Nat) : t.bufAt k = s.bufAt (pos + k) := by
    rw [State.bufAt, State.bufAt, hd, Nat.add_assoc]
    exact fbAt_congr (by rw [h]) (by rw [h]) _
  simp only [State.buffer, State.bufSlice, hbyte, Nat.zero_add]

/-- ADUPD over the piece `d[pos .. pos + n - 1]` of a buffer, after ADUPD over other pieces. -/
theorem exec_adupd_piece {data len : Word} {pos n : Nat} (hr : s.Ready) (h : CutFrame s t) (hs : SumsReduced t)
    (hd : data.toNat = s.data.toNat + pos) (hn : len.toNat = n) (hlen : n < LEN_LIMIT)
    (hfits : s.data.toNat + pos + n ≤ s.params.fbSize) :
    ∃ u, exec .adupd { t with data := data, len := len } = .next u ∧ CutFrame s u ∧ SumsReduced u ∧
      u.sums = adlerRun t.sums (s.bufSlice pos n) := by
  subst hn
  have hp : t.params = s.params := by rw [h]
  have hready : t.Ready := by rw [h]; exact hr
  have hcut : CutFrame s { t with data := data, len := len } := by
    unfold CutFrame
    rw [h]
  have hbuf : data.toNat + len.toNat ≤ t.params.fbSize := by rw [hp, hd]; exact hfits
  refine ⟨_, exec_adupd_ok hready hlen hbuf, ?_, checksumRun_reduced hs,
    (checksumRun_sums (s := { t with data := data, len := len }) hs).trans (congrArg _ (hcut.buffer hd))⟩
  unfold CutFrame at hcut ⊢
  rw [checksumRun_frame, hcut]

/-- States with the same sums as numbers have the same LO and HI. -/
theorem lo_hi_eq_of_sums (h : t.sums = s.sums) : t.lo = s.lo ∧ t.hi = s.hi :=
  ⟨BitVec.eq_of_toNat_eq (congrArg Prod.fst h), BitVec.eq_of_toNat_eq (congrArg Prod.snd h)⟩

/-- Two ADUPD over the two pieces of a buffer leave what one ADUPD over the whole leaves (R195). -/
theorem exec_adupd_twice {n1 n2 : Nat} (hi : s.Inv) (hr : s.Ready) (hlen : n1 + n2 < LEN_LIMIT)
    (hdata : s.data.toNat + n1 < 2 ^ 32) (hfits : s.data.toNat + n1 + n2 ≤ s.params.fbSize) :
    ∃ u v t, exec .adupd { s with len := BitVec.ofNat 32 n1 } = .next u ∧
      exec .adupd { u with data := BitVec.ofNat 32 (s.data.toNat + n1), len := BitVec.ofNat 32 n2 } = .next v ∧
      exec .adupd { s with len := BitVec.ofNat 32 (n1 + n2) } = .next t ∧ v.lo = t.lo ∧ v.hi = t.hi := by
  have hword {n : Nat} (hn : n < LEN_LIMIT) : (BitVec.ofNat 32 n).toNat = n :=
    Nat.mod_eq_of_lt (Nat.lt_trans hn (by decide))
  have hn1 : n1 < LEN_LIMIT := by omega
  have hn2 : n2 < LEN_LIMIT := by omega
  have hs : SumsReduced s := hi.sumsReduced hr
  obtain ⟨u, hu, hcut, hreduced, husums⟩ :=
    exec_adupd_piece (t := s) (data := s.data) (pos := 0) hr rfl hs rfl (hword hn1) hn1 (by omega)
  obtain ⟨v, hv, -, -, hvsums⟩ :=
    exec_adupd_piece (data := BitVec.ofNat 32 (s.data.toNat + n1)) hr hcut hreduced (Nat.mod_eq_of_lt hdata) (hword hn2)
      hn2 hfits
  obtain ⟨t, ht, -, -, htsums⟩ :=
    exec_adupd_piece (t := s) (data := s.data) (pos := 0) hr rfl hs rfl (hword hlen) hlen (by omega)
  refine ⟨u, v, t, hu, hv, ht, lo_hi_eq_of_sums ?_⟩
  calc v.sums
    _ = adlerRun (adlerRun s.sums (s.bufSlice 0 n1)) (s.bufSlice n1 n2) := by rw [hvsums, husums]
    _ = adlerRun s.sums (s.bufSlice 0 (n1 + n2)) := by rw [← adlerRun_append, bufSlice_add, Nat.zero_add]
    _ = t.sums := htsums.symm

/-- Settles O32: the block step is the reference, which composes over concatenation, and so do two ADUPD. -/
theorem checksumDoesNotDependOnTheCut : Obligations.ChecksumDoesNotDependOnTheCut :=
  ⟨fun _ blk hlo hhi _ _ => blockStep_run ⟨hlo, hhi⟩ blk, fun p d1 d2 => (adlerRun_append p d1 d2).symm,
    fun _ _ _ hi hr hlen hdata hfits => exec_adupd_twice hi hr hlen hdata hfits⟩

end Sys2Proof.Machine
end

section
/-! PROOFS. The host operations (`44_host_interface.md`): the register map under REGRD and REGWR, what each operation does
where its register or address exists and the bus error where it does not, and then CMD, RESET and the step. -/

namespace Sys2Proof.Machine

variable {s t : State} {op : HostOp} {ops : List HostOp} {w : CmdWord} {i : Instr}
variable {r r' a : Nat} {v : Word} {b : Byte}

/-! ### The register map -/

/-- STATUS as a number: ERR below FIN (R34). -/
theorem status_toNat (s : State) : s.status.toNat = s.err.toNat + if s.fin then 16 else 0 := by
  have herr : s.err.toNat < 2 ^ 4 := s.err.isLt
  rw [State.status, BitVec.toNat_append, ← Nat.shiftLeft_add_eq_or_of_lt herr]
  cases s.fin <;> simp [Nat.add_comm]

/-- STATUS as the register shows it (R34). -/
theorem status_eq (s : State) : s.status = BitVec.ofNat 32 (s.err.toNat + if s.fin then 16 else 0) := by
  rw [← status_toNat, BitVec.ofNat_toNat, BitVec.setWidth_eq]

/-- KIND as the register shows it (R36). -/
theorem kindView_eq (s : State) : s.kindView = BitVec.ofNat 32 s.kind.toNat := (BitVec.ofNat_toNat 32 s.kind).symm

/-- ADLER as the register shows it (R37). -/
theorem adler_eq (s : State) : s.adler = BitVec.ofNat 32 (s.hi.toNat * 65536 + s.lo.toNat) := by
  rw [← adler_toNat, BitVec.ofNat_toNat, BitVec.setWidth_eq]

/-- BITCNT as the register shows it (R39). -/
theorem bitcnt_eq (s : State) : s.bitcnt = BitVec.ofNat 32 (s.cnt % 8) := by
  rw [State.bitcnt, ← BitVec.ofNat_toNat, BitVec.toNat_ofNat]

/-- OUTLEN where the number of bytes fits the register (R38). -/
theorem outlen_eq (h : s.out.length < 2 ^ 32) : s.outlen = BitVec.ofNat 32 s.out.length := if_pos h

/-- No register shows the host's two lists. -/
@[simp] theorem readReg_setHostOps : readReg r (s.setHostOps ops) = readReg r s := rfl

@[simp] theorem readReg_answer {p : Reply} : readReg r (answer p s) = readReg r s := rfl

/-- No register has the number `r` (R23). -/
def UnimplementedReg (r : Nat) : Prop := (0x0A ≤ r ∧ r ≤ 0x0F) ∨ 0x16 ≤ r

theorem readReg_unimplemented (h : UnimplementedReg r) : readReg r s = none := by
  obtain ⟨hlo, hhi⟩ | hbeyond := h
  · interval_cases r <;> rfl
  · obtain ⟨n, rfl⟩ := Nat.exists_eq_add_of_le' hbeyond
    rfl

theorem writeReg_unimplemented (h : UnimplementedReg r) : writeReg r v s = none := by
  obtain ⟨hlo, hhi⟩ | hbeyond := h
  · interval_cases r <;> rfl
  · obtain ⟨n, rfl⟩ := Nat.exists_eq_add_of_le' hbeyond
    rfl

/-- A read-only register ignores the write (R203). -/
theorem writeReg_readOnly (h : 0x10 ≤ r ∧ r ≤ 0x15) : writeReg r v s = some s := by
  obtain ⟨hlo, hhi⟩ := h
  interval_cases r <;> rfl

/-- A configuration register takes the word (R203). -/
theorem writeReg_config (v : Word) (s : State) (h : r ≤ 0x09) : ∃ t, writeReg r v s = some t ∧ readReg r t = some v := by
  interval_cases r <;> exact ⟨_, rfl, rfl⟩

/-- A register shows its own field only, so a write to another one does not reach it. -/
theorem readReg_writeReg_other (h : writeReg r v s = some t) (hr : r' ≠ r) : readReg r' t = readReg r' s := by
  unfold writeReg at h
  unfold readReg
  split at h <;> cases h <;> split <;> trivial

/-- The host's lists are no registers. -/
theorem writeReg_host (h : writeReg r v s = some t) : t.hostOps = s.hostOps ∧ t.replies = s.replies := by
  unfold writeReg at h
  split at h <;> cases h <;> exact ⟨rfl, rfl⟩

/-! ### One host operation, where what it names exists and where it does not -/

theorem perform_regrd (h : readReg r s = some v) : perform (.regrd r) s = .next (answer (.reg v) s) := by
  simp only [perform, h]

theorem perform_regwr (h : writeReg r v s = some t) : perform (.regwr r v) s = .next (answer .done t) := by
  simp only [perform, h]

theorem perform_pixwr (h : a < s.params.pixSize) : perform (.pixwr a b) s = .next (answer .done (s.pixPut a b)) :=
  congrArg _ (if_pos h)

theorem perform_pixrd (h : a < s.params.pixSize) : perform (.pixrd a) s = .next (answer (.byte (s.pixAt a)) s) :=
  congrArg _ (if_pos h)

theorem perform_fbwr (h : a < s.params.fbSize) : perform (.fbwr a b) s = .next (answer .done (s.fbPut a b)) :=
  congrArg _ (if_pos h)

theorem perform_fbrd (h : a < s.params.fbSize) : perform (.fbrd a) s = .next (answer (.byte (s.fbAt a)) s) :=
  congrArg _ (if_pos h)

theorem perform_outrd {k : Nat} (h : s.out[k]? = some b) : perform (.outrd k) s = .next (answer (.byte b) s) := by
  simp only [perform, h]

/-- The operation names a register, an address or a byte of OUT that the block does not have (R204). -/
inductive Missing (s : State) : HostOp → Prop
  | regrd {r : Nat} (h : UnimplementedReg r) : Missing s (.regrd r)
  | regwr {r : Nat} {v : Word} (h : UnimplementedReg r) : Missing s (.regwr r v)
  | pixrd {a : Nat} (h : s.params.pixSize ≤ a) : Missing s (.pixrd a)
  | pixwr {a : Nat} {b : Byte} (h : s.params.pixSize ≤ a) : Missing s (.pixwr a b)
  | fbrd {a : Nat} (h : s.params.fbSize ≤ a) : Missing s (.fbrd a)
  | fbwr {a : Nat} {b : Byte} (h : s.params.fbSize ≤ a) : Missing s (.fbwr a b)
  | outrd {k : Nat} (h : s.out.length ≤ k) : Missing s (.outrd k)

theorem perform_missing (h : Missing s op) : perform op s = .next (answer .busError s) := by
  cases h with
  | regrd h => simp only [perform, readReg_unimplemented h]
  | regwr h => simp only [perform, writeReg_unimplemented h]
  | pixrd h => exact congrArg _ (if_neg (Nat.not_lt_of_le h))
  | pixwr h => exact congrArg _ (if_neg (Nat.not_lt_of_le h))
  | fbrd h => exact congrArg _ (if_neg (Nat.not_lt_of_le h))
  | fbwr h => exact congrArg _ (if_neg (Nat.not_lt_of_le h))
  | outrd h => simp only [perform, List.getElem?_eq_none h]

/-- What the operation names does not depend on the operations pending after it. -/
theorem Missing.setHostOps (h : Missing s op) (ops : List HostOp) : Missing (s.setHostOps ops) op := by
  cases h with
  | regrd h => exact .regrd h
  | regwr h => exact .regwr h
  | pixrd h => exact .pixrd h
  | pixwr h => exact .pixwr h
  | fbrd h => exact .fbrd h
  | fbwr h => exact .fbwr h
  | outrd h => exact .outrd h

/-- A bus error is a reply and nothing else (R204). -/
theorem step_missing (hs : s.hostOps = op :: ops) (h : Missing s op) : step s = .next (s.replied ops .busError) :=
  (step_op hs).trans (perform_missing (h.setHostOps ops))

/-- Settles O10: each of the seven forms names something missing. -/
theorem busErrorsChangeNothing : Obligations.BusErrorsChangeNothing := by
  intro s op ops hs h
  refine step_missing hs ?_
  obtain ⟨r, rfl, hr⟩ | ⟨r, v, rfl, hr⟩ | ⟨a, rfl, ha⟩ | ⟨a, b, rfl, ha⟩ | ⟨a, rfl, ha⟩ | ⟨a, b, rfl, ha⟩ |
    ⟨k, rfl, hk⟩ := h
  · exact .regrd hr
  · exact .regwr hr
  · exact .pixrd ha
  · exact .pixwr ha
  · exact .fbrd ha
  · exact .fbwr ha
  · exact .outrd hk

/-! ### Registers -/

/-- Settles O8: stored registers are read as they are, the others through their views, and REGRD only replies. -/
theorem regrdReturnsTheRegister : Obligations.RegrdReturnsTheRegister := by
  intro s
  exact ⟨rfl, rfl, rfl, rfl, rfl, rfl, rfl, rfl, rfl, rfl, congrArg some (status_eq s), rfl, congrArg some (kindView_eq s),
    congrArg some (adler_eq s), fun h => congrArg some (outlen_eq h), congrArg some (bitcnt_eq s),
    fun r v ops hs hv => (step_op hs).trans (perform_regrd (s := s.setHostOps ops) hv)⟩

/-- REGWR to a configuration register (R203): it takes the word, and the frame says that nothing but the configuration
registers and the host's lists differ. -/
theorem step_regwr_config (hs : s.hostOps = .regwr r v :: ops) (hr : r ≤ 0x09) :
    ∃ t, step s = .next t ∧ readReg r t = some v ∧ (∀ r', r' ≠ r → readReg r' t = readReg r' s) ∧ ConfigFrame s t ∧
      t.hostOps = ops ∧ t.replies = .done :: s.replies := by
  obtain ⟨u, hu, hread⟩ := writeReg_config v (s.setHostOps ops) hr
  obtain ⟨hops, hreplies⟩ := writeReg_host hu
  have hframe : ConfigFrame s u := (ConfigFrame.setHostOps ops).trans (writeReg_frame hu)
  refine ⟨answer .done u, (step_op hs).trans (perform_regwr hu), hread, fun r' hne => ?_, hframe.trans (.answer .done), hops,
    congrArg (Reply.done :: ·) hreplies⟩
  rw [readReg_answer, readReg_writeReg_other hu hne, readReg_setHostOps]

/-- Settles O9: by the three ranges of register numbers. -/
theorem regwrStoresOrIsIgnored : Obligations.RegwrStoresOrIsIgnored := by
  intro s r v ops hs
  refine ⟨fun hr => ?_, fun hr => ?_, fun hr => step_missing hs (.regwr hr)⟩
  · obtain ⟨t, ht, hread, hother, hframe, hops, hreplies⟩ := step_regwr_config hs hr
    unfold ConfigFrame at hframe
    rw [hops, hreplies] at hframe
    exact ⟨t, ht, hread, hother, hframe⟩
  · exact (step_op hs).trans (perform_regwr (writeReg_readOnly hr))

/-! ### Bytes of PIX, FB and OUT -/

/-- Settles O11: the invariant has both memories in canonical form, where a write is read back; other addresses keep their
byte in any form. -/
theorem hostReadsAndWritesBytes : Obligations.HostReadsAndWritesBytes := by
  intro s ops hi
  refine ⟨fun a b hs ha => ?_, fun a b hs ha => ?_, fun a hs ha => ?_, fun a hs ha => ?_⟩
  · exact ⟨_, (step_op hs).trans (perform_pixwr ha), rfl, Memory.read_write_same hi.pixWf,
      fun _ hne => Memory.read_write_other hne⟩
  · exact ⟨_, (step_op hs).trans (perform_fbwr ha), rfl, Memory.read_write_same hi.fbWf,
      fun _ hne => Memory.read_write_other hne⟩
  · exact (step_op hs).trans (perform_pixrd ha)
  · exact (step_op hs).trans (perform_fbrd ha)

/-- Settles O12: the byte at a number below OUTLEN is there. -/
theorem outrdReturnsTheByte : Obligations.OutrdReturnsTheByte := fun s _ ops hs hk =>
  (step_op hs).trans (perform_outrd (s := s.setHostOps ops) (List.getElem?_eq_getElem hk))

/-! ### CMD -/

/-- CMD of a legal word to a block that is not FAULTED (R201). -/
theorem step_cmd_instr (hs : s.hostOps = .cmd w :: ops) (hr : s.Ready) (hd : decode w = .instr i) :
    step s = exec i (s.replied ops .done) :=
  (step_op hs).trans (runCmd_instr (s := s.replied ops .done) hr hd)

/-- CMD of any word to a FAULTED block (R201, R230). -/
theorem step_cmd_faulted (hs : s.hostOps = .cmd w :: ops) (he : s.err ≠ 0#4) : step s = .next (s.replied ops .done) :=
  (step_op hs).trans (runCmd_faulted (s := s.replied ops .done) he)

/-- Settles O5: FAULTED, an illegal word, a legal word. -/
theorem cmdRunsTheDecodedInstruction : Obligations.CmdRunsTheDecodedInstruction := fun _ _ _ hs =>
  ⟨step_cmd_faulted hs, fun _ hr hd => step_illegal_cmd hd hr hs, fun _ hr hd => step_cmd_instr hs hr hd⟩

/-- A table word that decodes is the word of a legal command. -/
theorem decode_tableCmdWord {nbits n : Nat} (h : decodeTableWord nbits n = some i) :
    decode (tableCmdWord nbits n) = .instr i := by
  unfold decodeTableWord at h
  split at h <;> cases h
  assumption

/-- Settles O6: the placed word is the host's next CMD, and taking it off the list gives the old list back. -/
theorem fetchWordRunsNext : Obligations.FetchWordRunsNext := fun s _ _ _ hr h =>
  step_cmd_instr (ops := s.hostOps) rfl hr (decode_tableCmdWord h)

/-! ### RESET -/

/-- Settles O14: `resetBlock` keeps the parameters and both memories, so every byte reads as before. -/
theorem resetRestoresAllButMemories : Obligations.ResetRestoresAllButMemories := fun _ _ hs =>
  ⟨_, step_op hs, rfl, fun a => ⟨pixAt_congr rfl rfl a, fbAt_congr rfl rfl a⟩, rfl⟩

/-! ### Every step -/

theorem runCmd_next (w : CmdWord) (s : State) : ∃ t, runCmd w s = .next t := by
  by_cases hr : s.Ready
  · cases hd : decode w with
    | illegal why => exact ⟨_, runCmd_illegal hr hd⟩
    | instr i =>
      obtain ⟨t, ht, -⟩ := exec_next i s
      exact ⟨t, (runCmd_instr hr hd).trans ht⟩
  · exact ⟨s, runCmd_faulted hr⟩

/-- Every host operation completes: a lookup that finds nothing is a bus error (R204, R252). -/
theorem perform_next (op : HostOp) (s : State) : ∃ t, perform op s = .next t := by
  cases op with
  | cmd w => exact runCmd_next w _
  | regrd r =>
    simp only [perform]
    split <;> exact ⟨_, rfl⟩
  | regwr r v =>
    simp only [perform]
    split <;> exact ⟨_, rfl⟩
  | outrd k =>
    simp only [perform]
    split <;> exact ⟨_, rfl⟩
  | pixwr | pixrd | fbwr | fbrd | reset => exact ⟨_, rfl⟩

/-- Settles O7: idle, or the next operation. -/
theorem everyStepAnswersANextState : Obligations.EveryStepAnswersANextState := by
  refine fun s => ⟨?_, step_idle⟩
  cases hs : s.hostOps with
  | nil => exact ⟨s, step_idle hs⟩
  | cons op ops =>
    obtain ⟨t, ht⟩ := perform_next op (s.setHostOps ops)
    exact ⟨t, (step_op hs).trans ht⟩

end Sys2Proof.Machine
end

section
/-! PROOFS. Command faults (`60_exceptions.md`), each with the conditions that raise it, in both directions: a code that a
command leaves in ERR has one of its causes, and a check that fails writes ERR and nothing else. -/

namespace Sys2Proof.Machine

variable {s t u : State} {i : Instr} {f : CmdFault}

/-! ### The causes of the faults (R223 to R227) -/

/-- The configuration that an FLT command accepts (R121, R225). -/
abbrev State.RowConfigOk (s : State) : Prop :=
  1 ≤ s.bpp.toNat ∧ s.bpp.toNat ≤ 8 ∧ s.bpp.toNat ≤ s.size.toNat ∧ s.size.toNat ≤ MAX_ROW

/-- What has to hold of a block for a command to raise a fault in it (R223 to R227). ILLEGAL_CMD has no cause here: an
illegal word is no command. The cause of OUT_FULL is only what all its occurrences share, a finite OUT_CAP. -/
inductive FaultCause (s : State) : Instr → CmdFault → Prop
  | count {v : Word} {count : Nat} (h : 32 < count) : FaultCause s (.wrbits v count) .badCount
  | wordUnaligned {v : Word} (h : s.cnt ≠ 0) : FaultCause s (.wrbe32 v) .notAligned
  | streamUnaligned (h : s.cnt ≠ 0) : FaultCause s .zcomp .notAligned
  | rowConfig {i : Instr} (hi : i ∈ filters) (h : ¬s.RowConfigOk) : FaultCause s i .badCfg
  | rowRange {i : Instr} (hi : i ∈ filters) (h : ¬(s.rowInPix ∧ s.prevRowInPix ∧ s.rowInFb)) : FaultCause s i .badAddr
  | bufLength {i : Instr} (hi : i ∈ [Instr.zcomp, .adupd]) (h : LEN_LIMIT ≤ s.len.toNat) : FaultCause s i .badCfg
  | bufRange {i : Instr} (hi : i ∈ [Instr.zcomp, .adupd]) (h : ¬s.bufInFb) : FaultCause s i .badAddr
  | capacity {i : Instr} {cap : Nat} (h : s.params.outCap = some cap) : FaultCause s i .outFull

theorem rowCheck_cause (hi : i ∈ filters) (h : rowCheck s = some f) : FaultCause s i f := by
  obtain ⟨hc, hbad⟩ | ⟨hc, -, hbad⟩ | ⟨hc, -⟩ := rowCheck_cases (s := s) <;> cases h.symm.trans hc
  · exact .rowConfig hi hbad
  · exact .rowRange hi hbad

theorem zcompCheck_cause (h : zcompCheck s = some f) : FaultCause s .zcomp f := by
  obtain ⟨hc, hlen⟩ | ⟨hc, -, hcnt⟩ | ⟨hc, -, -, hbuf⟩ | ⟨hc, -⟩ := zcompCheck_cases (s := s) <;> cases h.symm.trans hc
  · exact .bufLength (by decide) hlen
  · exact .streamUnaligned hcnt
  · exact .bufRange (by decide) hbuf

/-- The capacity check fails exactly when OUT_CAP is finite and too small (R227). -/
theorem exceedsCap_true_iff {n : Nat} :
    exceedsCap n s = true ↔ ∃ cap, s.params.outCap = some cap ∧ cap < s.out.length + n := by
  unfold exceedsCap
  cases s.params.outCap <;> simp

theorem exceedsCap_cause {n : Nat} (h : exceedsCap n s = true) : FaultCause s i .outFull := by
  obtain ⟨cap, hcap, -⟩ := exceedsCap_true_iff.1 h
  exact .capacity hcap

/-! ### A fault that a command leaves has a cause -/

/-- Every fault that ERR shows in `t` has its cause in `s`, where the command `i` began. -/
def FaultsExplained (s : State) (i : Instr) (t : State) : Prop := ∀ f, t.err = faultCode f → FaultCause s i f

/-- 0 is the code of no fault (R221). -/
theorem faultCode_ne_zero (f : CmdFault) : faultCode f ≠ 0#4 := by cases f <;> decide

theorem FaultsExplained.ready (ht : t.Ready) : FaultsExplained s i t := fun f h =>
  absurd (h.symm.trans ht) (faultCode_ne_zero f)

/-- The code that a fault leaves names it (R221). -/
theorem FaultsExplained.raise (hu : u.Ready) (h : FaultCause s i f) : FaultsExplained s i (raise f u) := fun _ hg =>
  faultCode_injective ((raise_err f hu).symm.trans hg) ▸ h

/-- An operation that appends finds no room only in a finite OUT (R63). -/
theorem Appends.faultsExplained {x : Appended} (hr : s.Ready) (h : Appends s x) : FaultsExplained s i (settle x) := by
  cases x with
  | ok t =>
    have hframe : StreamFrame s t := h.1
    exact .ready (by rw [settle_ok, hframe.1]; exact hr)
  | error t =>
    have hframe : StreamFrame s t := h.1
    have hfull := h.2 t rfl
    rw [hframe.1] at hfull
    exact .raise (by rw [hframe.1]; exact hr) (.capacity hfull)

theorem filterRow_faultsExplained (hr : s.Ready) (hi : i ∈ filters) (sel : State → FilterKind) :
    FaultsExplained s i (filterRow sel s) := by
  obtain ⟨f, hc, h⟩ | ⟨-, h⟩ := filterRow_cases (s := s) sel <;> rw [h]
  · exact .raise hr (rowCheck_cause hi hc)
  · exact .ready hr

theorem wrbits_faultsExplained (hr : s.Ready) (v : Word) (count : Nat) :
    FaultsExplained s (.wrbits v count) (wrbits v count s) := by
  unfold wrbits
  split
  · exact .raise hr (.count ‹_›)
  · split
    · exact .raise hr (exceedsCap_cause ‹_›)
    · exact (writeBits_appends v count).faultsExplained hr

theorem flush_faultsExplained (hr : s.Ready) (final : Bool) : FaultsExplained s (.flush final) (flush final s) := by
  unfold flush
  split
  · next hfull => exact .raise hr (.capacity hfull.2)
  · exact (flushBits_appends final).faultsExplained hr

theorem wrbe32_faultsExplained (hr : s.Ready) (v : Word) : FaultsExplained s (.wrbe32 v) (wrbe32 v s) := by
  unfold wrbe32
  split
  · exact .raise hr (.wordUnaligned ‹_›)
  · split
    · exact .raise hr (exceedsCap_cause ‹_›)
    · exact (writeBe32_appends v).faultsExplained hr

theorem adupd_faultsExplained (hr : s.Ready) : FaultsExplained s .adupd (adupd s) := by
  obtain ⟨hlen, h⟩ | ⟨-, hbuf, h⟩ | ⟨-, -, h⟩ := adupd_cases (s := s) <;> rw [h]
  · exact .raise hr (.bufLength (by decide) hlen)
  · exact .raise hr (.bufRange (by decide) hbuf)
  · exact .ready (by rw [checksumRun_frame]; exact hr)

theorem zcomp_faultsExplained (hr : s.Ready) : FaultsExplained s .zcomp (zcomp s) := by
  obtain ⟨f, hc, h⟩ | ⟨-, t, -, ht, h⟩ | ⟨-, t, -, ht, hfull, h⟩ := zcomp_cases (s := s) <;> rw [h]
  · exact .raise hr (zcompCheck_cause hc)
  · exact .ready (by rw [ht.forgetTable.1]; exact hr)
  · rw [ht.1] at hfull
    exact .raise (by rw [ht.abandon.1]; exact hr) (.capacity hfull)

/-- Every fault that a command leaves in a block that was not FAULTED has its cause. -/
theorem exec_faultsExplained (hr : s.Ready) (h : exec i s = .next t) : FaultsExplained s i t := by
  cases i with
  | fltNone => exact command_next hr h ▸ filterRow_faultsExplained hr (by decide) _
  | fltSub => exact command_next hr h ▸ filterRow_faultsExplained hr (by decide) _
  | fltUp => exact command_next hr h ▸ filterRow_faultsExplained hr (by decide) _
  | fltAvg => exact command_next hr h ▸ filterRow_faultsExplained hr (by decide) _
  | fltPaeth => exact command_next hr h ▸ filterRow_faultsExplained hr (by decide) _
  | fltAuto => exact command_next hr h ▸ filterRow_faultsExplained hr (by decide) _
  | zcomp => exact command_next hr h ▸ zcomp_faultsExplained hr
  | wrbits v count => exact command_next hr h ▸ wrbits_faultsExplained hr v count
  | flush final => exact command_next hr h ▸ flush_faultsExplained hr final
  | wrbe32 v => exact command_next hr h ▸ wrbe32_faultsExplained hr v
  | bsclr => exact command_next hr h ▸ .ready hr
  | adinit => exact command_next hr h ▸ .ready hr
  | adupd => exact command_next hr h ▸ adupd_faultsExplained hr

/-! ### A check that fails changes ERR and nothing else (R229) -/

/-- A command that a check ends. -/
theorem command_fault {body : State → State} (hr : s.Ready) (h : body s = raise f s) :
    command body s = .next (s.setErr (faultCode f)) :=
  (command_ready hr).trans (congrArg _ (h.trans (raise_ready hr)))

/-- An FLT command with a failing check (R121). -/
theorem exec_filter_fault (hr : s.Ready) (hi : i ∈ filters) (hc : rowCheck s = some f) :
    exec i s = .next (s.setErr (faultCode f)) := by
  have hfault (sel : State → FilterKind) : filterRow sel s = raise f s := by rw [filterRow, hc]
  obtain ⟨k, rfl⟩ | rfl := filters_cases hi
  · rw [exec_fixedFilter, command_fault hr (hfault _)]
  · exact command_fault hr (hfault autoKind)

theorem rowCheck_badCfg (h : ¬s.RowConfigOk) : rowCheck s = some .badCfg := by
  obtain ⟨hc, -⟩ | ⟨-, hok, -⟩ | ⟨-, h1, h8, hsize, hmax, -⟩ := rowCheck_cases (s := s)
  · exact hc
  · exact absurd hok h
  · exact absurd ⟨h1, h8, hsize, hmax⟩ h

theorem rowCheck_badAddr (hok : s.RowConfigOk) (h : ¬(s.rowInPix ∧ s.prevRowInPix ∧ s.rowInFb)) :
    rowCheck s = some .badAddr := by
  obtain ⟨-, hbad⟩ | ⟨hc, -⟩ | ⟨-, -, -, -, -, hrange⟩ := rowCheck_cases (s := s)
  · exact absurd hok hbad
  · exact hc
  · exact absurd hrange h

/-- WRBITS of more than 32 bits (R182). -/
theorem exec_wrbits_badCount (hr : s.Ready) {v : Word} {count : Nat} (h : 32 < count) :
    exec (.wrbits v count) s = .next (s.setErr (faultCode .badCount)) :=
  command_fault hr (if_pos h)

/-- WRBITS of a legal count without room (R182). -/
theorem exec_wrbits_outFull (hr : s.Ready) {v : Word} {count : Nat} (hcount : count ≤ 32)
    (hcap : exceedsCap ((s.cnt + count) / 8) s = true) :
    exec (.wrbits v count) s = .next (s.setErr (faultCode .outFull)) :=
  command_fault hr ((if_neg (Nat.not_lt.2 hcount)).trans (if_pos hcap))

/-- FLUSH with bits pending and OUT full (R184). -/
theorem exec_flush_outFull (hr : s.Ready) {final : Bool} (hcnt : 0 < s.cnt) (hfull : s.params.outCap = some s.out.length) :
    exec (.flush final) s = .next (s.setErr (faultCode .outFull)) :=
  command_fault hr (if_pos ⟨hcnt, hfull⟩)

/-- WRBE32 with bits pending (R186). -/
theorem exec_wrbe32_notAligned (hr : s.Ready) {v : Word} (hcnt : s.cnt ≠ 0) :
    exec (.wrbe32 v) s = .next (s.setErr (faultCode .notAligned)) :=
  command_fault hr (if_pos hcnt)

/-- WRBE32 on a byte boundary without room (R186). -/
theorem exec_wrbe32_outFull (hr : s.Ready) {v : Word} (hcnt : s.cnt = 0) (hcap : exceedsCap 4 s = true) :
    exec (.wrbe32 v) s = .next (s.setErr (faultCode .outFull)) :=
  command_fault hr ((if_neg (not_not_intro hcnt)).trans (if_pos hcap))

/-- ADUPD of a buffer that is too long (R192). -/
theorem exec_adupd_badCfg (hr : s.Ready) (hlen : LEN_LIMIT ≤ s.len.toNat) :
    exec .adupd s = .next (s.setErr (faultCode .badCfg)) :=
  command_fault hr (if_pos hlen)

/-- ADUPD of a buffer of legal length outside FB (R192). -/
theorem exec_adupd_badAddr (hr : s.Ready) (hlen : s.len.toNat < LEN_LIMIT) (hbuf : ¬s.bufInFb) :
    exec .adupd s = .next (s.setErr (faultCode .badAddr)) :=
  command_fault hr ((if_neg (Nat.not_le.2 hlen)).trans (if_pos hbuf))

/-! ### FAULTED, and illegal words -/

/-- Settles O17: the command is ignored, and CMD then only takes the operation off the list and replies. -/
theorem faultedBlockIgnoresCommands : Obligations.FaultedBlockIgnoresCommands := by
  refine fun s he => ⟨fun i => ?_, fun w ops hs => step_cmd_faulted hs he⟩
  obtain ⟨t, ht, hkeep⟩ := exec_next i s
  rw [ht, hkeep he]

/-- Settles O19: CMD of a word that does not decode. -/
theorem illegalWordChangesOnlyErr : Obligations.IllegalWordChangesOnlyErr := fun _ _ _ _ hr hs hd =>
  step_illegal_cmd hd hr hs

/-! ### BAD_COUNT, NOT_ALIGNED, BAD_CFG, BAD_ADDR -/

/-- Settles O20: the first check of WRBITS, which is the only cause of BAD_COUNT. -/
theorem badCountChangesOnlyErr : Obligations.BadCountChangesOnlyErr := by
  refine fun s hr => ⟨fun v count h33 _ => exec_wrbits_badCount hr h33, fun i t h herr => ?_⟩
  cases exec_faultsExplained hr h .badCount herr with
  | count hcount => exact ⟨_, _, rfl, hcount⟩

/-- Settles O21: the checks of WRBE32 and ZCOMP, the only two commands that a cause of NOT_ALIGNED names. -/
theorem notAlignedChangesOnlyErr : Obligations.NotAlignedChangesOnlyErr := by
  intro s hr
  obtain ⟨-, hzcomp, -⟩ := zcompChecksInOrder s hr
  refine ⟨fun v hcnt => exec_wrbe32_notAligned hr hcnt, fun hcnt hlen => hzcomp hlen hcnt, fun i t h herr => ?_⟩
  cases exec_faultsExplained hr h .notAligned herr with
  | wordUnaligned hcnt => exact ⟨hcnt, .inr ⟨_, rfl⟩⟩
  | streamUnaligned hcnt => exact ⟨hcnt, .inl rfl⟩

/-- The configurations that R225 names are those that the checks of an FLT command refuse. -/
theorem not_rowConfigOk_iff : ¬s.RowConfigOk ↔
    s.bpp.toNat < 1 ∨ 8 < s.bpp.toNat ∨ s.size.toNat < s.bpp.toNat ∨ 2 ^ 24 < s.size.toNat := by
  have hmax : MAX_ROW = 2 ^ 24 := rfl
  omega

/-- Settles O22: the configuration checks come first in every command that has them, and nothing else causes BAD_CFG. -/
theorem badCfgChangesOnlyErr : Obligations.BadCfgChangesOnlyErr := by
  intro s hr
  obtain ⟨hzcomp, -, -⟩ := zcompChecksInOrder s hr
  refine ⟨fun i hi h => ?_, fun i hi hlen => ?_, fun i t h herr => ?_⟩
  · exact exec_filter_fault hr hi (rowCheck_badCfg (not_rowConfigOk_iff.2 h))
  · obtain rfl | rfl := List.mem_pair.1 hi
    · exact hzcomp hlen
    · exact exec_adupd_badCfg hr hlen
  · cases exec_faultsExplained hr h .badCfg herr with
    | rowConfig hi hbad => exact .inl ⟨hi, not_rowConfigOk_iff.1 hbad⟩
    | bufLength hi hlen => exact .inr ⟨hi, hlen⟩

/-- Addresses outside a memory, as R71 has them on unbounded integers, are those that the checks of an FLT command refuse. -/
theorem not_rowRanges_iff : ¬(s.rowInPix ∧ s.prevRowInPix ∧ s.rowInFb) ↔
    s.params.pixSize < s.src.toNat + s.size.toNat ∨
    (s.row ≠ 0#32 ∧ (s.src.toNat < s.stride.toNat ∨
      (s.params.pixSize : Int) < (s.src.toNat : Int) - s.stride.toNat + s.size.toNat)) ∨
    s.params.fbSize < s.dst.toNat + s.size.toNat := by
  by_cases hrow : s.row = 0#32
  · simp only [State.prevRowInPix, hrow, true_or, true_and, ne_eq, not_true, false_and, false_or]
    omega
  · simp only [State.prevRowInPix, hrow, false_or, ne_eq, not_false_eq_true, true_and]
    omega

/-- Settles O23: the range checks come after the others, and nothing else causes BAD_ADDR. -/
theorem badAddrChangesOnlyErr : Obligations.BadAddrChangesOnlyErr := by
  intro s hr
  obtain ⟨-, -, hzcomp⟩ := zcompChecksInOrder s hr
  refine ⟨fun i hi h1 h8 hsize hmax h => ?_, fun hlen hbuf => ?_, fun i t h herr => ?_⟩
  · exact exec_filter_fault hr hi (rowCheck_badAddr ⟨h1, h8, hsize, hmax⟩ (not_rowRanges_iff.2 h))
  · exact ⟨exec_adupd_badAddr hr hlen (Nat.not_le.2 hbuf), fun hcnt => hzcomp hlen hcnt hbuf⟩
  · cases exec_faultsExplained hr h .badAddr herr with
    | rowRange hi hbad => exact .inl ⟨hi, hbad⟩
    | bufRange hi hbuf => exact .inr ⟨hi, Nat.not_le.1 hbuf⟩

/-! ### OUT_FULL -/

/-- No check of ZCOMP raises OUT_FULL: its room is found out append by append (R142, R161). -/
theorem zcompCheck_ne_outFull : zcompCheck s ≠ some .outFull := by
  obtain ⟨hc, -⟩ | ⟨hc, -⟩ | ⟨hc, -⟩ | ⟨hc, -⟩ := zcompCheck_cases (s := s) <;> rw [hc] <;> exact nofun

/-- OUT_FULL inside ZCOMP (R161): OUT has kept what was appended, and is full. -/
theorem exec_zcomp_outFull (hr : s.Ready) (h : exec .zcomp s = .next t) (herr : t.err = faultCode .outFull) :
    s.out <+: t.out ∧ s.params.outCap = some t.out.length := by
  cases command_next hr h
  obtain ⟨f, hc, h⟩ | ⟨-, u, -, hu, h⟩ | ⟨-, u, -, hu, hfull, h⟩ := zcomp_cases (s := s) <;> rw [h] at herr ⊢
  · have hf : f = .outFull := faultCode_injective ((raise_err f hr).symm.trans herr)
    exact absurd (hf ▸ hc) zcompCheck_ne_outFull
  · have hready : (forgetTable u).Ready := by rw [hu.forgetTable.1]; exact hr
    exact absurd (herr.symm.trans hready) (faultCode_ne_zero .outFull)
  · have hout : (raise .outFull (abandon u)).out = u.out := by rw [raise_frame, State.setErr_out, abandon_out]
    have hparams : u.params = s.params := by rw [hu.1]
    rw [hout, ← hparams]
    exact ⟨hu.2, hfull⟩

/-- Settles O24: the checks of the three commands of unit BS, ZCOMP's end without room, and that OUT_FULL needs a finite
OUT_CAP. -/
theorem outFullIsCheckedFirstExceptInZcomp : Obligations.OutFullIsCheckedFirstExceptInZcomp := by
  intro s hr
  refine ⟨fun cap hcap => ⟨fun v count hcount hroom => ?_, fun f hcnt hfull => ?_, fun v hcnt hroom => ?_,
    fun t h herr => ?_⟩, fun hcap i t h herr => ?_⟩
  · exact exec_wrbits_outFull hr hcount (exceedsCap_true_iff.2 ⟨cap, hcap, hroom⟩)
  · exact exec_flush_outFull hr hcnt (hfull ▸ hcap)
  · exact exec_wrbe32_outFull hr hcnt (exceedsCap_true_iff.2 ⟨cap, hcap, hroom⟩)
  · obtain ⟨hgrown, hfull⟩ := exec_zcomp_outFull hr h herr
    exact ⟨hgrown, Option.some.inj (hfull.symm.trans hcap)⟩
  · cases exec_faultsExplained hr h .outFull herr with
    | capacity hfinite => exact nomatch hcap.symm.trans hfinite

end Sys2Proof.Machine
end
